-- ==== Sys2Proof/Word.lean ====
section
/-! DEFINITION. The word types of the block: bytes, command and status words, integer-register words,
strings and register indices (spec 00_scope.md R9, R13; 10_state.md R15 to R17; 30_encoding.md R37). -/

namespace Sys2Proof

/-- One byte of a string register (R13). -/
abbrev Byte := BitVec 8

/-- A 32-bit word: a command word (R35) or the STATUS register (R17). -/
abbrev Word32 := BitVec 32

/-- The 256-bit two's-complement word an integer register stores (R15). -/
abbrev XWord := BitVec 256

/-- A string: a finite list of bytes, character 0 first (R13). -/
abbrev Str := List Byte

/-- A register index: a plain 3-bit unsigned index, 0 to 7, into either register file (R37). -/
abbrev RegIdx := Fin 8

end Sys2Proof
end

