-- ==== Sys2Proof/Config.lean ====
section
/-! DEFINITION. What is fixed for one block and is not state (10_state.md R24): the width set, the string
capacity, and the parameters the spec leaves OPEN (HOST_MAP, DISP_ZERO, DISP_POS_EXP). An OPEN parameter is a
constant with no body: nothing can be proved about its value. -/

namespace Sys2Proof

/-- The transcoder's width set WIDTHS = 8, 16, 32, 64, 224 bits (00_scope.md R7). No other width exists. -/
inductive Width where
  | w8
  | w16
  | w32
  | w64
  | w224
deriving DecidableEq, Repr

/-- SCAP: the capacity of a string register in bytes (00_scope.md R9, 10_state.md R16). -/
def Config.scap : Nat := 56

/-- What the host can find behind HOST_MAP: each register, STATUS and the command port (10_state.md R19). -/
inductive HostPort where
  | xreg (i : RegIdx)
  | sreg (i : RegIdx)
  | status
  | command
deriving DecidableEq, Repr

/-- HOST_MAP, where the host finds each register and the command port: OPEN, a model argument
(00_scope.md R9, 20_memory.md R32, D7, U15). No step depends on it. Log entry 9. -/
opaque Config.hostMap : HostPort → Nat

/-- DISP_ZERO, the "distinguished zero display string" the source does not give: OPEN (42_xfl_unpack.md R60,
D36, U7). No step depends on it. Log entry 10. -/
opaque Config.dispZero : List Char

/-- DISP_POS_EXP, the form of a non-negative exponent in the display string: OPEN (42_xfl_unpack.md R60, D36,
U7). No step depends on it. Log entry 10. -/
opaque Config.dispPosExp : Nat → List Char

end Sys2Proof
end

