-- ==== Sys2Proof/Syntax.lean ====
section
/-! DEFINITION. The eight commands of the block, one constructor per row of the opcode table
(30_encoding.md R39). -/

namespace Sys2Proof

/-- A command with its operands. The opcode alone selects the register file each index names (R37): `rd` of
HENC and FLIPS and `ra` of HDEC and FLIPS are string registers, every other index an integer register.
Every term of this type is a legal command: an index lies in 0..7 and a width in WIDTHS by its type. -/
inductive Instr where
  /-- `HENC Sd, Xa, W`: encode an unsigned value as fixed-width hex (R46). -/
  | henc (rd ra : RegIdx) (w : Width)
  /-- `HDEC Xd, Sa, W`: decode a hex string to an unsigned value (R47). -/
  | hdec (rd ra : RegIdx) (w : Width)
  /-- `XPACK Xd, Xa, Xb`: build an XFL word from exponent Xa and mantissa Xb (R53). -/
  | xpack (rd ra rb : RegIdx)
  /-- `XEXP Xd, Xa`: the true exponent of an XFL word (R57). -/
  | xexp (rd ra : RegIdx)
  /-- `XMAN Xd, Xa`: the mantissa field of an XFL word (R58). -/
  | xman (rd ra : RegIdx)
  /-- `XNEG Xd, Xa`: 1 if an XFL word is negative, else 0 (R59). -/
  | xneg (rd ra : RegIdx)
  /-- `FLIPX Xd, Xa, W`: reverse the bytes of a W-bit value (R62). -/
  | flipx (rd ra : RegIdx) (w : Width)
  /-- `FLIPS Sd, Sa`: reverse the 2-character groups of a hex string (R63). -/
  | flips (rd ra : RegIdx)
deriving DecidableEq, Repr

end Sys2Proof
end

