-- ==== Sys2Proof/WellFormed.lean ====
section
/-! DEFINITION. What is well-formed: a string a register can hold, a register number the host may use, and a
legal command word, read off the match and mask columns of the opcode table. A term of `Instr` needs no check:
its types admit legal commands only. -/

namespace Sys2Proof

/-- A string fits a string register: its length is 0 to SCAP = 56 (10_state.md R16). -/
def Str.fits (t : Str) : Bool := decide (t.length ≤ Config.scap)

/-- A register number of the host interface names a register: it lies in 0..7 (10_state.md R19). -/
def regNumberOk (i : Nat) : Bool := decide (i < 8)

/-- One row of the bit-pattern table of 30_encoding.md R39. -/
structure OpcodeRow where
  mnemonic : String
  matchWord : Word32
  mask : Word32
  /-- the row has a W column, so that WC must be 0..4 -/
  usesWidth : Bool
deriving DecidableEq, Repr

/-- The bit-pattern table of R39, in its order. -/
def opcodeTable : List OpcodeRow := [
  ⟨"HENC", 0x00000001#32, 0xFFF1C0FF#32, true⟩,
  ⟨"HDEC", 0x00000002#32, 0xFFF1C0FF#32, true⟩,
  ⟨"XPACK", 0x00000003#32, 0xFFFE00FF#32, false⟩,
  ⟨"XEXP", 0x00000004#32, 0xFFFFC0FF#32, false⟩,
  ⟨"XMAN", 0x00000005#32, 0xFFFFC0FF#32, false⟩,
  ⟨"XNEG", 0x00000006#32, 0xFFFFC0FF#32, false⟩,
  ⟨"FLIPX", 0x00000007#32, 0xFFF1C0FF#32, true⟩,
  ⟨"FLIPS", 0x00000008#32, 0xFFFFC0FF#32, false⟩]

/-- "A word matches a row when (w & mask) == match. For a row with a W column, the word must also have
WC <= 4" (R39). -/
def OpcodeRow.accepts (r : OpcodeRow) (w : Word32) : Bool :=
  (w &&& r.mask) == r.matchWord && (!r.usesWidth || decide ((w.extractLsb' 17 3).toNat ≤ 4))

/-- A command word is legal when some row of the table accepts it (R39, R40). -/
def legalWord (w : Word32) : Bool := opcodeTable.any (·.accepts w)

end Sys2Proof
end

