-- ==== Sys2Proof/Decode.lean ====
section
/-! DEFINITION. Decoding a command word, total and rejecting by name (30_encoding.md R36 to R41), and the
encoder written from the same layout. -/

namespace Sys2Proof

/-- W in bits (00_scope.md R7). -/
def Width.bits : Width → Nat
  | .w8 => 8
  | .w16 => 16
  | .w32 => 32
  | .w64 => 64
  | .w224 => 224

/-- The number of hex digits of a width, W/4 (R7). -/
def Width.digits (w : Width) : Nat := w.bits / 4

/-- The number of bytes of a width, W/8 (R7). -/
def Width.bytes (w : Width) : Nat := w.bits / 8

/-- The width code WC of a width (30_encoding.md R38). -/
def Width.code : Width → BitVec 3
  | .w8 => 0
  | .w16 => 1
  | .w32 => 2
  | .w64 => 3
  | .w224 => 4

/-- The width a code selects; codes 5, 6 and 7 are reserved (R38). -/
def Width.ofCode? (c : BitVec 3) : Option Width :=
  if c = 0 then some .w8
  else if c = 1 then some .w16
  else if c = 2 then some .w32
  else if c = 3 then some .w64
  else if c = 4 then some .w224
  else none

/-- OP, bits 7:0 (R36). -/
def fieldOP (w : Word32) : BitVec 8 := w.extractLsb' 0 8

/-- RD, bits 10:8 (R36). -/
def fieldRD (w : Word32) : RegIdx := (w.extractLsb' 8 3).toFin

/-- RA, bits 13:11 (R36). -/
def fieldRA (w : Word32) : RegIdx := (w.extractLsb' 11 3).toFin

/-- RB, bits 16:14 (R36). -/
def fieldRB (w : Word32) : RegIdx := (w.extractLsb' 14 3).toFin

/-- WC, bits 19:17 (R36). -/
def fieldWC (w : Word32) : BitVec 3 := w.extractLsb' 17 3

/-- RSV, bits 31:20, which must be 0 (R36). -/
def fieldRSV (w : Word32) : BitVec 12 := w.extractLsb' 20 12

/-- Why a word is no command (R40, R41). Each of them is the error IllegalCommand of the block: the names are
the model's own and are not state. -/
inductive DecodeError where
  /-- a non-zero RSV field -/
  | reservedNotZero
  /-- an OP value outside 0x01..0x08 -/
  | opcodeIllegal
  /-- WC 5, 6 or 7 on a command that uses WC -/
  | widthCodeReserved
  /-- a non-zero WC on a command that does not use it -/
  | widthCodeUnused
  /-- a non-zero RB on a command that does not use it -/
  | rbUnused
deriving DecidableEq, Repr

/-- The WC check and operand of a command that uses WC (R40). -/
def withWidth (w : Word32) (k : Width → Except DecodeError Instr) : Except DecodeError Instr :=
  match Width.ofCode? (fieldWC w) with
  | some width => k width
  | none => .error .widthCodeReserved

/-- The WC check of a command that does not use WC (R40). -/
def withoutWidth (w : Word32) (k : Except DecodeError Instr) : Except DecodeError Instr :=
  if fieldWC w = 0 then k else .error .widthCodeUnused

/-- The RB check of a command that does not use RB (R40). -/
def withoutRB (w : Word32) (i : Instr) : Except DecodeError Instr :=
  if fieldRB w = 0 then .ok i else .error .rbUnused

/-- Decoding of a command word, with the checks in the order R40 lists them. -/
def decode (w : Word32) : Except DecodeError Instr :=
  if fieldRSV w = 0 then
    match (fieldOP w).toNat with
    | 0x01 => withWidth w fun width => withoutRB w (.henc (fieldRD w) (fieldRA w) width)
    | 0x02 => withWidth w fun width => withoutRB w (.hdec (fieldRD w) (fieldRA w) width)
    | 0x03 => withoutWidth w (.ok (.xpack (fieldRD w) (fieldRA w) (fieldRB w)))
    | 0x04 => withoutWidth w (withoutRB w (.xexp (fieldRD w) (fieldRA w)))
    | 0x05 => withoutWidth w (withoutRB w (.xman (fieldRD w) (fieldRA w)))
    | 0x06 => withoutWidth w (withoutRB w (.xneg (fieldRD w) (fieldRA w)))
    | 0x07 => withWidth w fun width => withoutRB w (.flipx (fieldRD w) (fieldRA w) width)
    | 0x08 => withoutWidth w (withoutRB w (.flips (fieldRD w) (fieldRA w)))
    | _ => .error .opcodeIllegal
  else .error .reservedNotZero

/-- A command word from its fields, most significant first: RSV = 0, WC, RB, RA, RD, OP (R36). -/
def packWord (wc : BitVec 3) (rb ra rd : RegIdx) (op : BitVec 8) : Word32 :=
  0#12 ++ wc ++ (BitVec.ofFin rb : BitVec 3) ++ (BitVec.ofFin ra : BitVec 3)
    ++ (BitVec.ofFin rd : BitVec 3) ++ op

/-- The word of a command: the opcode map of R39, RSV and every unused field 0 (R42). -/
def encode : Instr → Word32
  | .henc rd ra w => packWord w.code 0 ra rd 0x01
  | .hdec rd ra w => packWord w.code 0 ra rd 0x02
  | .xpack rd ra rb => packWord 0 rb ra rd 0x03
  | .xexp rd ra => packWord 0 0 ra rd 0x04
  | .xman rd ra => packWord 0 0 ra rd 0x05
  | .xneg rd ra => packWord 0 0 ra rd 0x06
  | .flipx rd ra w => packWord w.code 0 ra rd 0x07
  | .flips rd ra => packWord 0 0 ra rd 0x08

/-- The command word given by the low `nbits` bits of a number, numbered as the opcode table numbers them. A
command is handed over as one whole 32-bit word, so no byte order is involved (20_memory.md R30). Log entry 17. -/
def tableWord (nbits w : Nat) : Word32 := BitVec.ofNat 32 (w % 2 ^ nbits)

/-- The command the decoder reads from an opcode-table word; none where it refuses. -/
def decodeTableWord (nbits w : Nat) : Option Instr :=
  match decode (tableWord nbits w) with
  | .ok i => some i
  | .error _ => none

end Sys2Proof
end

