-- ==== Sys2Proof/Machine/State.lean ====
section
/-! DEFINITION. The state of the block, the reasons a step can stop, and the state after reset
(10_state.md R15 to R24, 70_reset_and_hazards.md R79, R80). -/

namespace Sys2Proof.Machine

/-- A register of one of the two files (R15, R16). -/
inductive Reg where
  | x (i : RegIdx)
  | s (i : RegIdx)
deriving DecidableEq, Repr

/-- A host action (10_state.md R19). A register number is a number the host gives, so that one outside 0..7 can
be written down and refused (R20). -/
inductive HostAction where
  /-- `H_WRX(i, u)` -/
  | wrx (i : Nat) (u : XWord)
  /-- `H_RDX(i)` -/
  | rdx (i : Nat)
  /-- `H_WRS(i, s)` -/
  | wrs (i : Nat) (t : Str)
  /-- `H_RDS(i)` -/
  | rds (i : Nat)
  /-- `H_RDST()` -/
  | rdst
  /-- `H_CLRST()` -/
  | clrst
  /-- `H_CMD(w)` -/
  | cmd (w : Word32)
  /-- `H_RESET()` -/
  | reset
deriving DecidableEq, Repr

/-- What a reading host action returns (R19). -/
inductive HostReply where
  | xword (u : XWord)
  | str (t : Str)
  | status (w : Word32)
deriving DecidableEq, Repr

/-- Why a step faults. The block itself never stops (R70): the one fault is the model's own of R22. -/
inductive Fault where
  /-- A command or a host read would read a register nothing has written since reset (R22, U1). Raised only by
  `checkedStep` (Machine/Unwritten.lean), never by `step`. Safe: it stops where the hardware goes on with an
  unspecified value. Log entry 3. -/
  | unwrittenRead (r : Reg)
deriving DecidableEq, Repr

/-- Why a step is refused. -/
inductive Refusal where
  /-- An instruction with no meaning in the model. Raised by no arm: all eight commands have their meaning. -/
  | notModelled (mnemonic : String)
  /-- A host action whose arguments lie outside the table of R19 "does not exist", and "a model refuses it"
  (R20, U3). Raised by `perform`. Safe: the hardware's response is unspecified. Log entry 8. -/
  | hostActionOutOfTable (a : HostAction)
deriving DecidableEq, Repr

/-- The whole state. The block's own state is `xregs`, `sregs` and `status` (R15 to R17, R23). The written marks
are the bookkeeping R22 asks of a model. `pending` and `replies` are the host's side of the interface (R19): the
actions it will issue, in order, and the values its reads have returned, oldest first. Log entries 5 and 7. -/
structure State where
  /-- X0..X7, each a 256-bit two's-complement word (R15) -/
  xregs : Vector XWord 8
  /-- S0..S7, each a string of length 0 to 56 (R16) -/
  sregs : Vector Str 8
  /-- STATUS (R17) -/
  status : Word32
  /-- Xi has been written since reset (R22) -/
  xWritten : Vector Bool 8
  /-- Si has been written since reset (R22) -/
  sWritten : Vector Bool 8
  /-- the host actions not yet performed, the next one first (R19, R33) -/
  pending : List HostAction
  /-- what the host's reads have returned, oldest first (R19) -/
  replies : List HostReply
deriving DecidableEq, Repr

/-- What an integer register holds after reset: the spec gives no value, the model's is 0.
DESIGN CHOICE, unsafe, log entry 1. -/
def resetXWord : XWord := 0

/-- What a string register holds after reset: the spec gives no value, the model's is the empty string.
DESIGN CHOICE, unsafe, log entry 2. -/
def resetStr : Str := []

/-- The block right after reset (R80): STATUS 0, no register written; no host action is pending. -/
def State.reset : State where
  xregs := Vector.replicate 8 resetXWord
  sregs := Vector.replicate 8 resetStr
  status := 0
  xWritten := Vector.replicate 8 false
  sWritten := Vector.replicate 8 false
  pending := []
  replies := []

end Sys2Proof.Machine
end

