-- ==== Sys2Proof/Machine/Flags.lean ====
section
/-! DEFINITION. The STATUS register: its fields (10_state.md R17), the error codes (60_exceptions.md R65) and the
three updates every command ends with (R66 to R68). -/

namespace Sys2Proof.Machine

/-- The errors a command can raise (R65). -/
inductive CmdError where
  /-- HENC and FLIPX: the operand is negative or does not fit the width -/
  | rangeError
  /-- HDEC and FLIPS: the string is malformed -/
  | formatError
  /-- XEXP, XMAN and XNEG: the raw operand is outside the decode domain -/
  | invalidXflError
  /-- any word that decoding rejects -/
  | illegalCommand
deriving DecidableEq, Repr

/-- The code STATUS.ERR records for an error (R65). -/
def CmdError.code : CmdError → BitVec 4
  | .rangeError => 1
  | .formatError => 2
  | .invalidXflError => 3
  | .illegalCommand => 4

/-- ERR, bits 3:0 (R17). -/
def statusErr (w : Word32) : BitVec 4 := w.extractLsb' 0 4

/-- INV, bit 4 (R17). -/
def statusInv (w : Word32) : Bool := w.getLsbD 4

/-- SERR, bit 8: a command has raised an error since STATUS was cleared (R17). -/
def statusSerr (w : Word32) : Bool := w.getLsbD 8

/-- SINV, bit 9: a command has returned the sentinel since STATUS was cleared (R17). -/
def statusSinv (w : Word32) : Bool := w.getLsbD 9

/-- The reserved bits 7:5 and 31:10, every other bit masked off (R17). -/
def statusReserved (w : Word32) : Word32 := w &&& 0xFFFFFCE0#32

/-- Success: ERR and INV become 0, every other bit stays (R66). -/
def statusDone (w : Word32) : Word32 := w &&& 0xFFFFFFE0#32

/-- An error with code `c`: ERR becomes `c`, INV becomes 0, SERR becomes 1, every other bit stays (R67). -/
def statusError (c : BitVec 4) (w : Word32) : Word32 :=
  (w &&& 0xFFFFFFE0#32) ||| 0x00000100#32 ||| c.setWidth 32

/-- The sentinel: ERR becomes 0, INV and SINV become 1, every other bit stays (R68). -/
def statusSentinel (w : Word32) : Word32 := (w &&& 0xFFFFFFE0#32) ||| 0x00000210#32

end Sys2Proof.Machine
end

