-- ==== Sys2Proof/Machine/Ops.lean ====
section
/-! DEFINITION. The named operations over registers and STATUS: reading and writing a register, and the three
ways a command ends (00_scope.md R14, 60_exceptions.md R64 to R68). The block has no memory and no trap, so
raising an error is the one shared exception operation, and there is no return from it (R70, R72). -/

namespace Sys2Proof.Machine

/-- `X[i]`: the integer Xi holds, in [-2^255, 2^255) (R14, R15). -/
def State.readX (s : State) (i : RegIdx) : Int := s.xregs[i].toInt

/-- `S[i]`: the string Si holds (R14, R16). -/
def State.readS (s : State) (i : RegIdx) : Str := s.sregs[i]

/-- Stores a word in Xi and marks Xi as written (R15, R22). -/
def State.writeXWord (s : State) (i : RegIdx) (u : XWord) : State :=
  { s with xregs := s.xregs.set i u, xWritten := s.xWritten.set i true }

/-- `X[i] <- v`, for v in [-2^255, 2^255) (R14). The word is v's two's complement; a v outside the range would be
narrowed, which happens in no state a run reaches (log entry 13). -/
def State.writeX (s : State) (i : RegIdx) (v : Int) : State := s.writeXWord i (BitVec.ofInt 256 v)

/-- `S[i] <- t`: stores a string in Si and marks Si as written (R14, R16, R22). -/
def State.writeS (s : State) (i : RegIdx) (t : Str) : State :=
  { s with sregs := s.sregs.set i t, sWritten := s.sWritten.set i true }

/-- `done`: the STATUS update of a successful command (R14, R66). -/
def State.done (s : State) : State := { s with status := statusDone s.status }

/-- `raise E`: no register changes and STATUS records the error; nothing is saved, no mode changes and control
goes nowhere (R14, R67, R70). -/
def State.raiseError (e : CmdError) (s : State) : State :=
  { s with status := statusError e.code s.status }

/-- The invalid sentinel's value in the destination register (00_scope.md R9, R68). -/
def sentinelValue : Int := -1

/-- `return_sentinel(rd)`: the destination holds -1 and STATUS records the sentinel (R14, R68). -/
def State.returnSentinel (rd : RegIdx) (s : State) : State :=
  let s' := s.writeX rd sentinelValue
  { s' with status := statusSentinel s'.status }

/-- How a command ends (R64): success with a value for an integer or a string destination, the sentinel, or an error. What
a command computes from its operands is one of these; that is all of XTV's function. -/
inductive CmdEnd where
  | doneX (v : Int)
  | doneS (t : Str)
  | sentinel
  | error (e : CmdError)
deriving DecidableEq, Repr

/-- The whole effect of a command with destination `rd` that ends so (R66 to R68). -/
def State.endCommand (s : State) (rd : RegIdx) : CmdEnd → State
  | .doneX v => (s.writeX rd v).done
  | .doneS t => (s.writeS rd t).done
  | .sentinel => s.returnSentinel rd
  | .error e => s.raiseError e

/-- A register has been written since reset (R22). -/
def State.isWritten (s : State) : Reg → Bool
  | .x i => s.xWritten[i]
  | .s i => s.sWritten[i]

end Sys2Proof.Machine
end

