-- ==== Sys2Proof/Machine/Operands.lean ====
section
/-! DEFINITION. The operand forms of the commands: which registers a command reads and writes (30_encoding.md R39),
bit fields (00_scope.md R11), big-endian bytes (R12), and the operand checks (40_hex_transcoder.md R46,
42_xfl_unpack.md R54). -/

namespace Sys2Proof.Machine

/-- The registers a command reads, in the order its rule reads them (R39; DEDUCED for the order of XPACK's two
operands, which is that of its pseudocode, log entry 18). -/
def operandsOf : Instr → List Reg
  | .henc _ ra _ => [.x ra]
  | .hdec _ ra _ => [.s ra]
  | .xpack _ ra rb => [.x ra, .x rb]
  | .xexp _ ra => [.x ra]
  | .xman _ ra => [.x ra]
  | .xneg _ ra => [.x ra]
  | .flipx _ ra _ => [.x ra]
  | .flips _ ra => [.s ra]

/-- The register a command writes when it succeeds (R39). -/
def destinationOf : Instr → Reg
  | .henc rd _ _ => .s rd
  | .hdec rd _ _ => .x rd
  | .xpack rd _ _ => .x rd
  | .xexp rd _ => .x rd
  | .xman rd _ => .x rd
  | .xneg rd _ => .x rd
  | .flipx rd _ _ => .x rd
  | .flips rd _ => .s rd

/-- `v[hi:lo]`, the field from bit hi down to bit lo (R11). -/
def bitField (hi lo v : Nat) : Nat := v / 2 ^ lo % 2 ^ (hi - lo + 1)

/-- `bytes_be` of an n-byte value: byte k is bits 8n-1-8k down to 8n-8-8k, byte 0 the most significant (R12). -/
def bytesBE (n v : Nat) : List Byte :=
  (List.range n).map fun k => BitVec.ofNat 8 (bitField (8 * n - 1 - 8 * k) (8 * n - 8 - 8 * k) v)

/-- `from_bytes_be(L)`: the sum of L[k] * 2^(8*(len(L)-1-k)) (R12). -/
def fromBytesBE : List Byte → Nat
  | [] => 0
  | b :: rest => b.toNat * 2 ^ (8 * rest.length) + fromBytesBE rest

/-- The range check of HENC and FLIPX: 0 <= v < 2^W (R46, R62). -/
def inWidth (w : Width) (v : Int) : Bool := decide (0 ≤ v ∧ v < 2 ^ w.bits)

/-- The decode domain of an XFL word, [0, 2^63) (R54). -/
def inXflDomain (raw : Int) : Bool := decide (0 ≤ raw ∧ raw < 2 ^ 63)

end Sys2Proof.Machine
end

