-- ==== Sys2Proof/Machine/Hex.lean ====
section
/-! DEFINITION. The fixed-width hex transcoder: HENC and HDEC (40_hex_transcoder.md R45 to R47). -/

namespace Sys2Proof.Machine

/-- `hexval`: the value of a hex digit character, none for every other byte (R45; the ASCII codes are PRESUMED by
the spec from general knowledge, K1 and K2, log entry 11). -/
def hexval? (b : Byte) : Option Nat :=
  if 0x30 ≤ b.toNat ∧ b.toNat ≤ 0x39 then some (b.toNat - 0x30)
  else if 0x41 ≤ b.toNat ∧ b.toNat ≤ 0x46 then some (b.toNat - 0x41 + 10)
  else if 0x61 ≤ b.toNat ∧ b.toNat ≤ 0x66 then some (b.toNat - 0x61 + 10)
  else none

/-- A byte is one of the 22 hex digit characters (R45). -/
def isHexDigit (b : Byte) : Bool := (hexval? b).isSome

/-- `hexchar(d)` for d in 0..15: `0`..`9`, then upper-case `A`..`F` (R45). -/
def hexchar (d : Nat) : Byte :=
  if d < 10 then BitVec.ofNat 8 (0x30 + d) else BitVec.ofNat 8 (0x41 + (d - 10))

/-- The n-digit hex text of a value, most significant digit first, zero-padded on the left (R28, R46). -/
def hexString (n v : Nat) : Str :=
  (List.range n).map fun k => hexchar (v / 2 ^ (4 * (n - 1 - k)) % 16)

/-- The value of a string of hex digits: the sum of hexval(s[k]) * 16^(len(s)-1-k) (R47). -/
def hexValue : Str → Nat
  | [] => 0
  | b :: rest => (hexval? b).getD 0 * 16 ^ rest.length + hexValue rest

/-- `encode(value, W)` (R46). -/
def hencEnd (w : Width) (v : Int) : CmdEnd :=
  if inWidth w v then .doneS (hexString w.digits v.toNat) else .error .rangeError

/-- `decode(hex, W)`: the width has no effect on the result (R47). -/
def hdecEnd (t : Str) : CmdEnd :=
  if t = [] then .error .formatError
  else if t.all isHexDigit then .doneX (hexValue t)
  else .error .formatError

/-- HENC (R46). -/
def execHenc (rd ra : RegIdx) (w : Width) (s : State) : Host.Outcome State Fault Refusal :=
  .next (s.endCommand rd (hencEnd w (s.readX ra)))

/-- HDEC (R47). -/
def execHdec (rd ra : RegIdx) (_w : Width) (s : State) : Host.Outcome State Fault Refusal :=
  .next (s.endCommand rd (hdecEnd (s.readS ra)))

end Sys2Proof.Machine
end

