-- ==== Sys2Proof/Machine/ByteOrder.lean ====
section
/-! DEFINITION. Byte-order inversion: FLIPX and FLIPS (43_byte_order.md R61 to R63), and the wire order of an XFL
word (20_memory.md R27). -/

namespace Sys2Proof.Machine

/-- `flip_W(v)` for a value of n = W/8 bytes: its big-endian bytes in reverse order (R61). -/
def flipBytes (n v : Nat) : Nat := fromBytesBE (bytesBE n v).reverse

/-- `flips(s)`: the 2-character groups in reverse order, each group keeping its own order (R61). -/
def flipGroups : Str → Str
  | a :: b :: rest => flipGroups rest ++ [a, b]
  | t => t

/-- `wire_bytes(x)`: the bytes of a 64-bit XFL word in wire order (R27). -/
def wireBytes (x : Nat) : List Byte := (bytesBE 8 x).reverse

/-- `flipBytes(integer)` at width W (R62). -/
def flipxEnd (w : Width) (v : Int) : CmdEnd :=
  if inWidth w v then .doneX (flipBytes w.bytes v.toNat) else .error .rangeError

/-- `flipBytes(hex)` (R63). -/
def flipsEnd (t : Str) : CmdEnd :=
  if t.length % 2 ≠ 0 then .error .formatError
  else if t.all isHexDigit then .doneS (flipGroups t)
  else .error .formatError

/-- FLIPX (R62). -/
def execFlipx (rd ra : RegIdx) (w : Width) (s : State) : Host.Outcome State Fault Refusal :=
  .next (s.endCommand rd (flipxEnd w (s.readX ra)))

/-- FLIPS (R63). -/
def execFlips (rd ra : RegIdx) (s : State) : Host.Outcome State Fault Refusal :=
  .next (s.endCommand rd (flipsEnd (s.readS ra)))

end Sys2Proof.Machine
end

