-- ==== Sys2Proof/Machine/XflPack.lean ====
section
/-! DEFINITION. XFL construction: normalize, clip, bias and pack, and XPACK (41_xfl_pack.md R48 to R53). -/

namespace Sys2Proof.Machine

/-- BIAS (00_scope.md R6). -/
def xflBias : Int := 97

/-- EMIN (R6). -/
def xflEmin : Int := -96

/-- EMAX (R6). -/
def xflEmax : Int := 80

/-- MMIN = 10^15 (R6). -/
def xflMmin : Nat := 1000000000000000

/-- MMAX = 10^16 - 1 (R6). -/
def xflMmax : Nat := 9999999999999999

/-- The first loop of `norm`, run for at most `fuel` rounds: while a > MMAX, divide a by 10, dropping the last
digit, and increment e (R50). -/
def divideDown : Nat → Nat → Int → Nat × Int
  | 0, a, e => (a, e)
  | fuel + 1, a, e => if a > xflMmax then divideDown fuel (a / 10) (e + 1) else (a, e)

/-- The second loop of `norm`, run for at most `fuel` rounds: while a < MMIN and a is not 0, multiply a by 10 and
decrement e (R50). -/
def multiplyUp : Nat → Nat → Int → Nat × Int
  | 0, a, e => (a, e)
  | fuel + 1, a, e => if a < xflMmin ∧ a ≠ 0 then multiplyUp fuel (a * 10) (e - 1) else (a, e)

/-- `norm(a, e)` (R50). The round limits, `a` and 15, are never what ends a loop (DEDUCED, log entry 15). -/
def norm (a : Nat) (e : Int) : Nat × Int :=
  let p := divideDown a a e
  multiplyUp 15 p.1 p.2

/-- `(pos ? 1 : 0) << 62 | (en + 97) << 54 | mn` (R52). -/
def packXfl (pos : Bool) (en : Int) (mn : Nat) : Nat :=
  (if pos then 1 else 0) <<< 62 ||| (en + xflBias).toNat <<< 54 ||| mn

/-- `makeXfl(exponent, mantissa)` (R49 to R53). -/
def makeXfl (e m : Int) : CmdEnd :=
  if m = 0 then .doneX 0
  else
    let p := norm m.natAbs e
    if p.1 = 0 then .doneX 0
    else if p.2 < xflEmin ∨ p.2 > xflEmax then .sentinel
    else .doneX (packXfl (decide (0 < m)) p.2 p.1)

/-- XPACK (R53): both operands are read before the destination is written. -/
def execXpack (rd ra rb : RegIdx) (s : State) : Host.Outcome State Fault Refusal :=
  .next (s.endCommand rd (makeXfl (s.readX ra) (s.readX rb)))

end Sys2Proof.Machine
end

