-- ==== Sys2Proof/Machine/XflUnpack.lean ====
section
/-! DEFINITION. XFL decoding: the field functions, XEXP, XMAN and XNEG (42_xfl_unpack.md R54 to R59). -/

namespace Sys2Proof.Machine

/-- `xexp(raw)`: 0 for raw = 0, else raw[61:54] - 97 (R55, R56). -/
def xflExp (raw : Nat) : Int := if raw = 0 then 0 else (bitField 61 54 raw : Int) - xflBias

/-- `xman(raw)`: raw[53:0] (R55, R56). -/
def xflMan (raw : Nat) : Nat := bitField 53 0 raw

/-- `xneg(raw)`: 0 for raw = 0, else 1 exactly when bit 62 is clear (R55, R56). -/
def xflNeg (raw : Nat) : Nat := if raw = 0 then 0 else if bitField 62 62 raw = 0 then 1 else 0

/-- What XEXP, XMAN and XNEG share: the input check of R54, then the field's value. -/
def decodeEnd (field : Nat → Int) (raw : Int) : CmdEnd :=
  if inXflDomain raw then .doneX (field raw.toNat) else .error .invalidXflError

/-- XEXP (R57). -/
def execXexp (rd ra : RegIdx) (s : State) : Host.Outcome State Fault Refusal :=
  .next (s.endCommand rd (decodeEnd xflExp (s.readX ra)))

/-- XMAN (R58). -/
def execXman (rd ra : RegIdx) (s : State) : Host.Outcome State Fault Refusal :=
  .next (s.endCommand rd (decodeEnd (fun raw => xflMan raw) (s.readX ra)))

/-- XNEG (R59). -/
def execXneg (rd ra : RegIdx) (s : State) : Host.Outcome State Fault Refusal :=
  .next (s.endCommand rd (decodeEnd (fun raw => xflNeg raw) (s.readX ra)))

end Sys2Proof.Machine
end

