-- ==== Sys2Proof/Machine/Dispatch.lean ====
section
/-! DEFINITION. One arm per command: which meaning runs it. -/

namespace Sys2Proof.Machine

/-- Runs a decoded command (30_encoding.md R40: "execute the rule of op"). -/
def exec (i : Instr) (s : State) : Host.Outcome State Fault Refusal :=
  match i with
  | .henc rd ra w => Sys2Proof.Machine.execHenc rd ra w s
  | .hdec rd ra w => Sys2Proof.Machine.execHdec rd ra w s
  | .xpack rd ra rb => Sys2Proof.Machine.execXpack rd ra rb s
  | .xexp rd ra => Sys2Proof.Machine.execXexp rd ra s
  | .xman rd ra => Sys2Proof.Machine.execXman rd ra s
  | .xneg rd ra => Sys2Proof.Machine.execXneg rd ra s
  | .flipx rd ra w => Sys2Proof.Machine.execFlipx rd ra w s
  | .flips rd ra => Sys2Proof.Machine.execFlips rd ra s

end Sys2Proof.Machine
end

