-- ==== Sys2Proof/Machine/HostPort.lean ====
section
/-! DEFINITION. What each host action does (10_state.md R19 to R21, 70_reset_and_hazards.md R79, R80). -/

namespace Sys2Proof.Machine

/-- The arguments of an action lie inside the table of R19. The ranges of the words are their types'. -/
def HostAction.inTable : HostAction → Bool
  | .wrx i _ => regNumberOk i
  | .rdx i => regNumberOk i
  | .wrs i t => regNumberOk i && Str.fits t
  | .rds i => regNumberOk i
  | .rdst => true
  | .clrst => true
  | .cmd _ => true
  | .reset => true

/-- The register a host's register number names, once `inTable` has passed it. -/
def regOfNumber (i : Nat) : RegIdx := Fin.ofNat 8 i

/-- The host's read returned `r`. -/
def State.reply (s : State) (r : HostReply) : State := { s with replies := s.replies ++ [r] }

/-- `H_CMD(w)`: decode, then the command's rule; a word decoding rejects raises IllegalCommand (R19, R40, R41). -/
def runCommand (w : Word32) (s : State) : Host.Outcome State Fault Refusal :=
  match decode w with
  | .ok i => exec i s
  | .error _ => .next (s.raiseError .illegalCommand)

/-- `H_RESET()`: the block's registers, STATUS and marks become those of `State.reset` (R79, R80). What the host has
still to issue and has already read is the host's own and stays. Log entry 4. -/
def resetBlock (s : State) : State :=
  { State.reset with pending := s.pending, replies := s.replies }

/-- The effect of a host action whose arguments are inside the table (R19). -/
def actionEffect (a : HostAction) (s : State) : Host.Outcome State Fault Refusal :=
  match a with
  | .wrx i u => .next (s.writeXWord (regOfNumber i) u)
  | .rdx i => .next (s.reply (.xword s.xregs[regOfNumber i]))
  | .wrs i t => .next (s.writeS (regOfNumber i) t)
  | .rds i => .next (s.reply (.str s.sregs[regOfNumber i]))
  | .rdst => .next (s.reply (.status s.status))
  | .clrst => .next { s with status := 0 }
  | .cmd w => runCommand w s
  | .reset => .next (resetBlock s)

/-- A host action: its effect, or the refusal of an action that does not exist (R19, R20). -/
def perform (a : HostAction) (s : State) : Host.Outcome State Fault Refusal :=
  if a.inTable then actionEffect a s else .refused (.hostActionOutOfTable a)

end Sys2Proof.Machine
end

