-- ==== Sys2Proof/Machine/Step.lean ====
section
/-! DEFINITION. One step of the machine: the host's next action takes effect, whole and alone (10_state.md R19, R21;
20_memory.md R33). -/

namespace Sys2Proof.Machine

/-- The next pending action, taken off the queue and performed. With no action pending the block does nothing, since
it acts only on the host's actions (R19; log entry 6). -/
def step (s : State) : Host.Outcome State Fault Refusal :=
  match s.pending with
  | [] => .next s
  | a :: rest => perform a { s with pending := rest }

/-- The state in which the host's next action is `H_CMD` of the given opcode-table word. Commands are not fetched
(R18): a program is the host's sequence of actions (R5), handed to the model in `pending`. Log entry 5. -/
def State.withFetchWord (s : State) (nbits w : Nat) : State :=
  { s with pending := .cmd (tableWord nbits w) :: s.pending }

end Sys2Proof.Machine
end

