-- ==== Sys2Proof/Machine/Assembler.lean ====
section
/-! DEFINITION. The assembly notation: command lines (30_encoding.md R42), the two pseudo-instructions (R43) and the host
directives (R44). One line of text becomes the host actions it stands for; none is an assembly error. Notation only:
no step depends on it. What the spec leaves open in the text form is log entry 14. -/

namespace Sys2Proof.Machine

/-- `XTOWIRE Sd, Xa, Xb, Xt`: pack, flip, encode (R43). -/
def xtowire (sd xa xb xt : RegIdx) : List Instr := [.xpack xt xa xb, .flipx xt xt .w64, .henc sd xt .w64]

/-- `XFROMWIRE Xd, Sa`: decode, flip (R43). -/
def xfromwire (xd sa : RegIdx) : List Instr := [.hdec xd sa .w64, .flipx xd xd .w64]

/-- The host actions of a sequence of commands (R44). -/
def commandActions (is : List Instr) : List HostAction := is.map fun i => .cmd (encode i)

/-- An operand as written: a register of either file, or a number. -/
inductive AsmOperand where
  | x (i : RegIdx)
  | s (i : RegIdx)
  | num (n : Nat)
deriving DecidableEq, Repr

/-- A width is written as 8, 16, 32, 64 or 224; any other number is an assembly error (R42). -/
def widthOfBits? (n : Nat) : Option Width :=
  [Width.w8, .w16, .w32, .w64, .w224].find? fun w => w.bits == n

/-- A command or pseudo-instruction from its mnemonic, in upper case, and its operands. A register of the wrong file and
an illegal width are assembly errors (R42, R43). -/
def assembleOps (m : List Char) (ops : List AsmOperand) : Option (List Instr) :=
  if m = "HENC".toList then
    match ops with
    | [.s d, .x a, .num n] => (widthOfBits? n).map fun w => [.henc d a w]
    | _ => none
  else if m = "HDEC".toList then
    match ops with
    | [.x d, .s a, .num n] => (widthOfBits? n).map fun w => [.hdec d a w]
    | _ => none
  else if m = "XPACK".toList then
    match ops with
    | [.x d, .x a, .x b] => some [.xpack d a b]
    | _ => none
  else if m = "XEXP".toList then
    match ops with
    | [.x d, .x a] => some [.xexp d a]
    | _ => none
  else if m = "XMAN".toList then
    match ops with
    | [.x d, .x a] => some [.xman d a]
    | _ => none
  else if m = "XNEG".toList then
    match ops with
    | [.x d, .x a] => some [.xneg d a]
    | _ => none
  else if m = "FLIPX".toList then
    match ops with
    | [.x d, .x a, .num n] => (widthOfBits? n).map fun w => [.flipx d a w]
    | _ => none
  else if m = "FLIPS".toList then
    match ops with
    | [.s d, .s a] => some [.flips d a]
    | _ => none
  else if m = "XTOWIRE".toList then
    match ops with
    | [.s d, .x a, .x b, .x t] => some (xtowire d a b t)
    | _ => none
  else if m = "XFROMWIRE".toList then
    match ops with
    | [.x d, .s a] => some (xfromwire d a)
    | _ => none
  else none

/-- A register number's digit. -/
def asmDigit (i : RegIdx) : Char := Char.ofNat (0x30 + i.val)

/-- An integer register's name. -/
def asmX (i : RegIdx) : List Char := ['X', asmDigit i]

/-- A string register's name. -/
def asmS (i : RegIdx) : List Char := ['S', asmDigit i]

/-- A width in decimal. -/
def asmW (w : Width) : List Char := Nat.toDigits 10 w.bits

/-- The line of R42 for a command, in upper case, operands separated by a comma and a blank. -/
def asmText : Instr → List Char
  | .henc d a w => "HENC ".toList ++ asmS d ++ [',', ' '] ++ asmX a ++ [',', ' '] ++ asmW w
  | .hdec d a w => "HDEC ".toList ++ asmX d ++ [',', ' '] ++ asmS a ++ [',', ' '] ++ asmW w
  | .xpack d a b => "XPACK ".toList ++ asmX d ++ [',', ' '] ++ asmX a ++ [',', ' '] ++ asmX b
  | .xexp d a => "XEXP ".toList ++ asmX d ++ [',', ' '] ++ asmX a
  | .xman d a => "XMAN ".toList ++ asmX d ++ [',', ' '] ++ asmX a
  | .xneg d a => "XNEG ".toList ++ asmX d ++ [',', ' '] ++ asmX a
  | .flipx d a w => "FLIPX ".toList ++ asmX d ++ [',', ' '] ++ asmX a ++ [',', ' '] ++ asmW w
  | .flips d a => "FLIPS ".toList ++ asmS d ++ [',', ' '] ++ asmS a

/-- A blank: a space or a tab. -/
def isBlank (c : Char) : Bool := c == ' ' || c == '\t'

/-- The text without the blanks at its start. -/
def trimLeft (l : List Char) : List Char := l.dropWhile isBlank

/-- The text without blanks at either end. -/
def trim (l : List Char) : List Char := (trimLeft (trimLeft l).reverse).reverse

/-- The text cut at each comma; one piece if there is none. -/
def splitCommas : List Char → List (List Char)
  | [] => [[]]
  | c :: rest =>
    if c == ',' then [] :: splitCommas rest
    else
      match splitCommas rest with
      | [] => [[c]]
      | p :: ps => (c :: p) :: ps

/-- The digits of a literal in a base up to 16, `_` only grouping them (00_scope.md R10); none if there is no digit or a
character is none. DESIGN CHOICE, log entry 14: a hexadecimal digit may be in either case, and a `_` may stand anywhere
among the digits, at the start or end of the literal too; R10 settles neither. -/
def digitsValue (base : Nat) (l : List Char) : Option Nat :=
  let ds := l.filter (· != '_')
  if ds.isEmpty then none
  else ds.foldl (fun acc c => do
    let n ← acc
    let d ← if c.toNat < 256 then hexval? (BitVec.ofNat 8 c.toNat) else none
    if d < base then some (n * base + d) else none) (some 0)

/-- A number: decimal, `0x` hexadecimal, or a power `b^n` of decimals (00_scope.md R10). DESIGN CHOICE, log entry 14: the
prefix may also be written `0X`, which R10 does not give. -/
def numberOf? (l : List Char) : Option Nat :=
  match l with
  | '0' :: 'x' :: rest => digitsValue 16 rest
  | '0' :: 'X' :: rest => digitsValue 16 rest
  | _ =>
    match l.dropWhile (· != '^') with
    | _ :: power => do
      let b ← digitsValue 10 (l.takeWhile (· != '^'))
      let n ← digitsValue 10 power
      some (b ^ n)
    | [] => digitsValue 10 l

/-- An integer: a number, with a `-` before it if it is negative. -/
def integerOf? (l : List Char) : Option Int :=
  match l with
  | '-' :: rest => (numberOf? rest).map fun n => -(n : Int)
  | _ => (numberOf? l).map fun n => (n : Int)

/-- An operand: `X0`..`X7` or `S0`..`S7` in either case, else a number (R42). -/
def operandOf? (l : List Char) : Option AsmOperand :=
  match l with
  | [c, d] =>
    if c.toUpper == 'X' then (digitsValue 8 [d]).map fun n => .x (regOfNumber n)
    else if c.toUpper == 'S' then (digitsValue 8 [d]).map fun n => .s (regOfNumber n)
    else (numberOf? l).map .num
  | _ => (numberOf? l).map .num

/-- The operands after a mnemonic: nothing, or pieces between commas. -/
def operandsOf? (l : List Char) : Option (List AsmOperand) :=
  if (trim l).isEmpty then some [] else (splitCommas l).mapM fun p => operandOf? (trim p)

/-- The text before a comment (R42: `;` starts a comment). -/
def stripComment (l : List Char) : List Char := l.takeWhile (· != ';')

/-- The bytes of a directive's text; every character must be one byte. -/
def textBytes? (l : List Char) : Option Str :=
  l.mapM fun c => if c.toNat < 256 then some (BitVec.ofNat 8 c.toNat) else none

/-- `.sets Si, "<text>"`, after the directive's name: the text stands between two double quotes (R44). -/
def assembleSets (l : List Char) : Option (List HostAction) :=
  match operandOf? (trim (l.takeWhile (· != ','))), trimLeft ((l.dropWhile (· != ',')).drop 1) with
  | some (.s i), '"' :: quoted =>
    match quoted.dropWhile (· != '"') with
    | _ :: after =>
      if (trim (stripComment after)).isEmpty then do
        let t ← textBytes? (quoted.takeWhile (· != '"'))
        if Str.fits t then some [.wrs i t] else none
      else none
    | [] => none
  | _, _ => none

/-- `.setx Xi, <integer v>` with v in [-2^255, 2^255), after the directive's name (R44). -/
def assembleSetx (l : List Char) : Option (List HostAction) :=
  match (splitCommas l).map trim with
  | [r, n] => do
    let op ← operandOf? r
    let v ← integerOf? n
    match op with
    | .x i => if -(2 ^ 255 : Int) ≤ v ∧ v < 2 ^ 255 then some [.wrx i (BitVec.ofInt 256 v)] else none
    | _ => none
  | _ => none

/-- `.word <32-bit value>`: a raw word, legal or not (R44). -/
def assembleWord (l : List Char) : Option (List HostAction) := do
  let n ← numberOf? (trim l)
  if n < 2 ^ 32 then some [.cmd (BitVec.ofNat 32 n)] else none

/-- One line: a directive, a command or a pseudo-instruction, or nothing but blanks and a comment (R42 to R44). -/
def assembleLine (line : List Char) : Option (List HostAction) :=
  let l := trimLeft line
  let head := (l.takeWhile fun c => !isBlank c && c != ';').map Char.toUpper
  let rest := l.drop head.length
  let plain := stripComment rest
  if head = [] then some []
  else if head = ".SETS".toList then assembleSets rest
  else if head = ".SETX".toList then assembleSetx plain
  else if head = ".WORD".toList then assembleWord plain
  else if head = ".CLRST".toList then if (trim plain).isEmpty then some [.clrst] else none
  else if head = ".RESET".toList then if (trim plain).isEmpty then some [.reset] else none
  else do
    let ops ← operandsOf? plain
    let is ← assembleOps head ops
    some (commandActions is)

/-- A program: the actions of its lines, in order; none if some line is an assembly error (R5, R42, R44). -/
def assemble (lines : List (List Char)) : Option (List HostAction) :=
  (lines.mapM assembleLine).map List.flatten

end Sys2Proof.Machine
end

