-- ==== Sys2Proof/Machine/Display.lean ====
section
/-! DEFINITION. The display string `disp(raw)` (42_xfl_unpack.md R60): notation for the source's examples, produced by
no command. What the source leaves out of it is a parameter (log entry 10). -/

namespace Sys2Proof.Machine

/-- A number in decimal, without leading zeros. -/
def decimalDigits (n : Nat) : List Char := Nat.toDigits 10 n

/-- The exponent of a display string: a leading `-` when it is negative; the form of a non-negative one is OPEN. -/
def dispExponent (e : Int) : List Char :=
  if e < 0 then '-' :: decimalDigits e.natAbs else Config.dispPosExp e.toNat

/-- `disp(raw)`: sign, mantissa, `E`, exponent (R60). -/
def disp (raw : Nat) : List Char :=
  if raw = 0 then Config.dispZero
  else (if xflNeg raw = 0 then '+' else '-') :: decimalDigits (xflMan raw) ++ 'E' :: dispExponent (xflExp raw)

end Sys2Proof.Machine
end

