-- ==== Sys2Proof/Machine/Unwritten.lean ====
section
/-! DEFINITION. Registers nothing has written (10_state.md R22, 60_exceptions.md R69): the register a step would read
although nothing has written it since reset, and the step that faults there. -/

namespace Sys2Proof.Machine

/-- The first operand of a command that nothing has written since reset. -/
def unwrittenOperand (i : Instr) (s : State) : Option Reg :=
  (operandsOf i).find? fun r => !s.isWritten r

/-- The first register an action would read although nothing has written it since reset. A word that decoding rejects
reads nothing, because decode checks come first (R69); nor does an action that does not exist. -/
def unwrittenRead (a : HostAction) (s : State) : Option Reg :=
  match a with
  | .cmd w =>
    match decode w with
    | .ok i => unwrittenOperand i s
    | .error _ => none
  | .rdx i => if regNumberOk i && !s.isWritten (.x (regOfNumber i)) then some (.x (regOfNumber i)) else none
  | .rds i => if regNumberOk i && !s.isWritten (.s (regOfNumber i)) then some (.s (regOfNumber i)) else none
  | .wrx _ _ => none
  | .wrs _ _ => none
  | .rdst => none
  | .clrst => none
  | .reset => none

/-- The step with R22's fault: `UnwrittenRead` before the read gives a value, `step` otherwise. Log entry 3. -/
def checkedStep (s : State) : Host.Outcome State Fault Refusal :=
  match s.pending with
  | [] => step s
  | a :: _ =>
    match unwrittenRead a s with
    | some r => .fault (.unwrittenRead r)
    | none => step s

/-- `n` checked steps, stopping at the first fault or refusal. -/
def checkedRun : Nat → State → Host.Outcome State Fault Refusal
  | 0, s => .next s
  | n + 1, s =>
    match checkedStep s with
    | .next t => checkedRun n t
    | .fault r => .fault r
    | .refused r => .refused r

end Sys2Proof.Machine
end

