-- ==== Sys2Proof/Safety.lean ====
section
/-! DEFINITION. What counts as a safe run, in the terms claims use: a run that reads no unwritten register and asks
for no host action that does not exist (10_state.md R20, R22; 70_reset_and_hazards.md R80, R81), and when two states
differ only in what no claim may rely on. -/

namespace Sys2Proof.Machine

/-- `n` steps from `s` are safe: no `UnwrittenRead`, no refusal. -/
def SafeRun (n : Nat) (s : State) : Prop := ∃ t, checkedRun n s = .next t

/-- The two states agree on everything but the contents of registers nothing has written since reset, which are
unspecified: "No claim may rely on it" (R80). -/
structure AgreeOnWritten (s t : State) : Prop where
  status : s.status = t.status
  xWritten : s.xWritten = t.xWritten
  sWritten : s.sWritten = t.sWritten
  pending : s.pending = t.pending
  replies : s.replies = t.replies
  xregs : ∀ i : RegIdx, s.isWritten (.x i) = true → s.readX i = t.readX i
  sregs : ∀ i : RegIdx, s.isWritten (.s i) = true → s.readS i = t.readS i

/-- What holds in every state the block can be in, whatever the unspecified registers hold: every string fits its
register (R16), the reserved STATUS bits are 0 and ERR is a code that exists (R17), an error code is never beside the
sentinel bit (R69), and the sticky bits cover the last command's outcome (R67, R68). -/
structure State.Inv (s : State) : Prop where
  strings : ∀ i : RegIdx, (s.readS i).length ≤ Config.scap
  reserved : statusReserved s.status = 0
  errCode : (statusErr s.status).toNat ≤ 4
  oneOutcome : statusErr s.status = 0 ∨ statusInv s.status = false
  stickyError : statusErr s.status ≠ 0 → statusSerr s.status = true
  stickySentinel : statusInv s.status = true → statusSinv s.status = true

end Sys2Proof.Machine
end

