-- ==== Sys2Proof/Certificates/Slice0/Obligations.lean ====
section
/-! DEFINITION. The statements for the provers, and the words they are written in. -/

open Sys2Proof Sys2Proof.Machine

namespace Sys2Proof.Machine

/-! ### What a command does to the registers -/

/-- `X[rd] <- v` and nothing else but STATUS: every other X register, every S register and the host's side of the
interface are as before, and `rd` is marked as written. -/
structure WritesX (rd : RegIdx) (v : Int) (s t : State) : Prop where
  value : t.readX rd = v
  otherX : ∀ j, j ≠ rd → t.readX j = s.readX j
  strings : ∀ j, t.readS j = s.readS j
  marks : ∀ r, t.isWritten r = true ↔ r = .x rd ∨ s.isWritten r = true
  pending : t.pending = s.pending
  replies : t.replies = s.replies

/-- `S[rd] <- txt` and nothing else but STATUS. -/
structure WritesS (rd : RegIdx) (txt : Str) (s t : State) : Prop where
  value : t.readS rd = txt
  otherS : ∀ j, j ≠ rd → t.readS j = s.readS j
  integers : ∀ j, t.readX j = s.readX j
  marks : ∀ r, t.isWritten r = true ↔ r = .s rd ∨ s.isWritten r = true
  pending : t.pending = s.pending
  replies : t.replies = s.replies

/-- Nothing but STATUS changes. -/
structure WritesNothing (s t : State) : Prop where
  integers : ∀ j, t.readX j = s.readX j
  strings : ∀ j, t.readS j = s.readS j
  marks : ∀ r, t.isWritten r = s.isWritten r
  pending : t.pending = s.pending
  replies : t.replies = s.replies

/-! ### What a command does to STATUS -/

/-- R66: ERR and INV become 0, SERR and SINV stay; so do the reserved bits (R17). -/
structure StatusSuccess (s t : State) : Prop where
  err : statusErr t.status = 0
  inv : statusInv t.status = false
  serr : statusSerr t.status = statusSerr s.status
  sinv : statusSinv t.status = statusSinv s.status
  reserved : statusReserved t.status = statusReserved s.status

/-- R67: ERR becomes the code, INV becomes 0, SERR becomes 1, SINV stays; so do the reserved bits (R17). -/
structure StatusError (code : Nat) (s t : State) : Prop where
  err : (statusErr t.status).toNat = code
  inv : statusInv t.status = false
  serr : statusSerr t.status = true
  sinv : statusSinv t.status = statusSinv s.status
  reserved : statusReserved t.status = statusReserved s.status

/-- R68: ERR becomes 0, INV and SINV become 1, SERR stays; so do the reserved bits (R17). -/
structure StatusSentinel (s t : State) : Prop where
  err : statusErr t.status = 0
  inv : statusInv t.status = true
  serr : statusSerr t.status = statusSerr s.status
  sinv : statusSinv t.status = true
  reserved : statusReserved t.status = statusReserved s.status

/-- The command raises the error with this code: R67 whole. -/
def Raises (i : Instr) (code : Nat) (s : State) : Prop :=
  ∃ t, exec i s = .next t ∧ WritesNothing s t ∧ StatusError code s t

/-- The command succeeds with this value in the integer register `rd`: R66 whole. -/
def SucceedsX (i : Instr) (rd : RegIdx) (v : Int) (s : State) : Prop :=
  ∃ t, exec i s = .next t ∧ WritesX rd v s t ∧ StatusSuccess s t

/-- The command succeeds with this string in the string register `rd`: R66 whole. -/
def SucceedsS (i : Instr) (rd : RegIdx) (txt : Str) (s : State) : Prop :=
  ∃ t, exec i s = .next t ∧ WritesS rd txt s t ∧ StatusSuccess s t

/-- The command returns the invalid sentinel: R68 whole. -/
def ReturnsSentinel (i : Instr) (rd : RegIdx) (s : State) : Prop :=
  ∃ t, exec i s = .next t ∧ WritesX rd (-1) s t ∧ StatusSentinel s t

/-- Commands one after another, as the host's H_CMD actions run them. -/
def execAll : List Instr → State → Host.Outcome State Fault Refusal
  | [], s => .next s
  | i :: is, s =>
    match exec i s with
    | .next t => execAll is t
    | .fault r => .fault r
    | .refused r => .refused r

/-! ### The spec's tables and formulas, written out -/

/-- `0`..`9`, `A`..`F` of R45, in the order of their values. -/
def upperHexBytes : List Byte :=
  [0x30, 0x31, 0x32, 0x33, 0x34, 0x35, 0x36, 0x37, 0x38, 0x39, 0x41, 0x42, 0x43, 0x44, 0x45, 0x46]

/-- `a`..`f` of R45, in the order of their values 10 to 15. -/
def lowerHexBytes : List Byte := [0x61, 0x62, 0x63, 0x64, 0x65, 0x66]

/-- One of the 22 hex digit characters (R45). -/
abbrev IsHexByte (b : Byte) : Prop := b ∈ upperHexBytes ∨ b ∈ lowerHexBytes

/-- `hexval` (R45), for a hex digit character. -/
def hexByteValue (b : Byte) : Nat :=
  if b ∈ upperHexBytes then upperHexBytes.idxOf b else 10 + lowerHexBytes.idxOf b

/-- The sum of R47. -/
def hexSum (t : Str) : Nat :=
  ∑ k ∈ Finset.range t.length, hexByteValue (t.getD k 0) * 16 ^ (t.length - 1 - k)

/-- The list of R46. -/
def hexText (n v : Nat) : Str :=
  (List.range n).map fun k => upperHexBytes.getD (v / 16 ^ (n - 1 - k) % 16) 0

/-- The upper-case form of a hex digit character. -/
def upperHex (b : Byte) : Byte := if b ∈ lowerHexBytes then b - 0x20 else b

/-- The number of decimal digits. -/
def digitCount (a : Nat) : Nat := (Nat.digits 10 a).length

/-- The normalized pair by the digit count, as R50 derives it. -/
def normByDigits (a : Nat) (e : Int) : Nat × Int :=
  if digitCount a > 16 then (a / 10 ^ (digitCount a - 16), e + (digitCount a - 16 : Nat))
  else (a * 10 ^ (16 - digitCount a), e - (16 - digitCount a : Nat))

/-- The word of R52 by its fields' places. -/
def wordOf (pos : Bool) (en : Int) (mn : Nat) : Int :=
  (if pos then 2 ^ 62 else 0) + (en + 97) * 2 ^ 54 + mn

/-- A non-zero canonical XFL word (R48). -/
def CanonicalWord (raw : Int) : Prop :=
  ∃ (pos : Bool) (en : Int) (mn : Nat),
    -96 ≤ en ∧ en ≤ 80 ∧ 10 ^ 15 ≤ mn ∧ mn ≤ 10 ^ 16 - 1 ∧ raw = wordOf pos en mn

/-- The mnemonic of R39. -/
def mnemonicOf : Instr → String
  | .henc _ _ _ => "HENC"
  | .hdec _ _ _ => "HDEC"
  | .xpack _ _ _ => "XPACK"
  | .xexp _ _ => "XEXP"
  | .xman _ _ => "XMAN"
  | .xneg _ _ => "XNEG"
  | .flipx _ _ _ => "FLIPX"
  | .flips _ _ => "FLIPS"

/-- The one error code a command can raise, none for XPACK (R65). -/
def errorCodeOf : Instr → Option Nat
  | .henc _ _ _ => some 1
  | .hdec _ _ _ => some 2
  | .xpack _ _ _ => none
  | .xexp _ _ => some 3
  | .xman _ _ => some 3
  | .xneg _ _ => some 3
  | .flipx _ _ _ => some 1
  | .flips _ _ => some 2

/-- The illegal words of R41, by the fields of R36. -/
abbrev IllegalWord (w : Word32) : Prop :=
  let op := w.toNat % 256
  let rb := w.toNat / 2 ^ 14 % 8
  let wc := w.toNat / 2 ^ 17 % 8
  let usesWC := op = 1 ∨ op = 2 ∨ op = 7
  op = 0 ∨ 9 ≤ op ∨ w.toNat / 2 ^ 20 ≠ 0 ∨ (usesWC ∧ 5 ≤ wc) ∨ (¬usesWC ∧ wc ≠ 0) ∨ (op ≠ 3 ∧ rb ≠ 0)

/-- The state whose next action has been taken off the queue. -/
def popped (s : State) (rest : List HostAction) : State := { s with pending := rest }

end Sys2Proof.Machine

/-! ### Encoding -/

/-- Eight words of the spec's examples and vectors, one of each row of R39, decode to the command they stand for. -/
def Obligations.DecodeReadsTheSpecsWords : Prop :=
  decode 0x00000801 = .ok (.henc 0 1 .w8) ∧ decode 0x00060C02 = .ok (.hdec 4 1 .w64) ∧
  decode 0x00008803 = .ok (.xpack 0 1 2) ∧ decode 0x00002504 = .ok (.xexp 5 4) ∧
  decode 0x00002605 = .ok (.xman 6 4) ∧ decode 0x00002706 = .ok (.xneg 7 4) ∧
  decode 0x00060307 = .ok (.flipx 3 0 .w64) ∧ decode 0x00000108 = .ok (.flips 1 0)

/-- Decoding the word of a command gives the command back, for every command and operand. -/
def Obligations.DecodeOfEncodeIsTheCommand : Prop :=
  ∀ i : Instr, decode (encode i) = .ok i

/-- A word decodes to at most the command whose encoding it is: no bit of a legal word is ignored (D11: "every legal
word unique"). -/
def Obligations.LegalWordIsTheEncodingOfItsCommand : Prop :=
  ∀ (w : Word32) (i : Instr), decode w = .ok i → encode i = w

/-- R40: a word selects exactly one row of R39's table, and then decodes to a command of that row's mnemonic; or it
selects none and the command raises IllegalCommand. -/
def Obligations.EveryWordSelectsOneRowOrIsIllegal : Prop :=
  ∀ w : Word32,
    (∃ (i : Instr) (r : OpcodeRow), decode w = .ok i ∧ r ∈ opcodeTable ∧ r.accepts w = true ∧
      r.mnemonic = mnemonicOf i ∧ ∀ r' ∈ opcodeTable, r'.accepts w = true → r' = r) ∨
    ((∀ r ∈ opcodeTable, r.accepts w = false) ∧
      ∀ (s : State) (rest : List HostAction), s.pending = .cmd w :: rest →
        ∃ t, step s = .next t ∧ WritesNothing (popped s rest) t ∧ StatusError 4 s t)

/-- R41: each of the illegal encodings writes no register and records IllegalCommand as R67 says; every other word
decodes. -/
def Obligations.IllegalWordsRaiseIllegalCommand : Prop :=
  ∀ (w : Word32),
    (IllegalWord w → ∀ (s : State) (rest : List HostAction), s.pending = .cmd w :: rest →
      ∃ t, step s = .next t ∧ WritesNothing (popped s rest) t ∧ StatusError 4 s t) ∧
    (¬IllegalWord w → ∃ i, decode w = .ok i)

/-- R42: the line of a command, in upper or lower case, assembles to the H_CMD of its encoding. -/
def Obligations.AssemblyLinesEncodeTheirCommand : Prop :=
  ∀ i : Instr, assembleLine (asmText i) = some [.cmd (encode i)] ∧
    assembleLine ((asmText i).map Char.toLower) = some [.cmd (encode i)]

/-! ### The step and the host interface -/

/-- When the host's next action is the command word of a command, the step is that command, with the action taken off
the queue. -/
def Obligations.StepRunsTheDecodedCommand : Prop :=
  ∀ (s : State) (w : Word32) (rest : List HostAction) (i : Instr),
    s.pending = .cmd w :: rest → decode w = .ok i → step s = exec i (popped s rest)

/-- The table of R19, action by action; H_CMD of a legal word is the command's rule and of an illegal word R67's
IllegalCommand; H_RESET clears STATUS and every written mark. (What the registers of a reset block hold is the model's
choice, log entries 1 and 2, and is not stated.) -/
def Obligations.HostActionsFollowTheirTable : Prop :=
  ∀ (s : State) (rest : List HostAction),
    (∀ (i : RegIdx) (u : XWord), s.pending = .wrx i.val u :: rest →
      ∃ t, step s = .next t ∧ WritesX i u.toInt (popped s rest) t ∧ t.status = s.status) ∧
    (∀ i : RegIdx, s.pending = .rdx i.val :: rest →
      step s = .next { popped s rest with replies := s.replies ++ [.xword (BitVec.ofInt 256 (s.readX i))] }) ∧
    (∀ (i : RegIdx) (txt : Str), txt.length ≤ 56 → s.pending = .wrs i.val txt :: rest →
      ∃ t, step s = .next t ∧ WritesS i txt (popped s rest) t ∧ t.status = s.status) ∧
    (∀ i : RegIdx, s.pending = .rds i.val :: rest →
      step s = .next { popped s rest with replies := s.replies ++ [.str (s.readS i)] }) ∧
    (s.pending = .rdst :: rest →
      step s = .next { popped s rest with replies := s.replies ++ [.status s.status] }) ∧
    (s.pending = .clrst :: rest → step s = .next { popped s rest with status := 0 }) ∧
    (∀ w : Word32, s.pending = .cmd w :: rest →
      (∀ i, decode w = .ok i → step s = exec i (popped s rest)) ∧
      (∀ e, decode w = .error e → ∃ t, step s = .next t ∧ WritesNothing (popped s rest) t ∧ StatusError 4 s t)) ∧
    (s.pending = .reset :: rest →
      ∃ t, step s = .next t ∧ t.status = 0 ∧ (∀ r, t.isWritten r = false) ∧ t.pending = rest ∧ t.replies = s.replies)

/-- R20: an action whose arguments lie outside the table of R19 is refused. -/
def Obligations.ActionsOutsideTheTableAreRefused : Prop :=
  ∀ (s : State) (a : HostAction) (rest : List HostAction), s.pending = a :: rest →
    ((∃ i u, 8 ≤ i ∧ a = .wrx i u) ∨ (∃ i, 8 ≤ i ∧ (a = .rdx i ∨ a = .rds i)) ∨
      (∃ i txt, (8 ≤ i ∨ 56 < txt.length) ∧ a = .wrs i txt)) →
    step s = .refused (.hostActionOutOfTable a)

/-- R31: the host's reads change nothing of the block, and a write, a clear or a reset done twice is as done once. -/
def Obligations.HostReadsChangeNothingAndWritesAreIdempotent : Prop :=
  (∀ (a : HostAction) (s t : State), ((∃ i, a = .rdx i ∨ a = .rds i) ∨ a = .rdst) → perform a s = .next t →
    ∃ r, t = { s with replies := s.replies ++ [r] }) ∧
  (∀ (a : HostAction) (s t : State), ((∃ i u, a = .wrx i u) ∨ (∃ i txt, a = .wrs i txt) ∨ a = .clrst ∨ a = .reset) →
    perform a s = .next t → perform a t = .next t)

/-- R33: the actions take effect one at a time in issue order: what the host issues later neither changes what the
earlier actions do nor is lost. -/
def Obligations.ActionsTakeEffectInIssueOrder : Prop :=
  ∀ (as bs : List HostAction) (s t : State),
    Host.Core.run core as.length { s with pending := as } = .next t →
    t.pending = [] ∧
      Host.Core.run core as.length { s with pending := as ++ bs } = .next { t with pending := bs }

/-- R80 and R79: after reset, by power-on or by H_RESET, STATUS is 0 and no register is written; a second reset changes
nothing. (Register contents are unspecified and not stated.) -/
def Obligations.ResetClearsStatusAndMarks : Prop :=
  (State.reset.status = 0 ∧ ∀ r, State.reset.isWritten r = false) ∧
  (∀ s : State, ∃ t, perform .reset s = .next t ∧ t.status = 0 ∧ (∀ r, t.isWritten r = false) ∧
    perform .reset t = .next t)

/-! ### STATUS and the outcomes -/

/-- R64 with R66, R67 and R68: every command ends in exactly one of success, sentinel and error, with that outcome's
whole effect; only XPACK returns the sentinel, and an error has the one code R65 gives the command. (R64's sentence on a
model's UnwrittenRead is the checked step's: log entry 3.) -/
def Obligations.EveryCommandEndsInExactlyOneOutcome : Prop :=
  ∀ (i : Instr) (s : State), ∃ t, exec i s = .next t ∧
    let success := StatusSuccess s t ∧ ((∃ rd v, destinationOf i = .x rd ∧ WritesX rd v s t) ∨
      (∃ rd txt, destinationOf i = .s rd ∧ WritesS rd txt s t))
    let sentinel := StatusSentinel s t ∧ ∃ rd ra rb, i = .xpack rd ra rb ∧ WritesX rd (-1) s t
    let error := ∃ code, errorCodeOf i = some code ∧ StatusError code s t ∧ WritesNothing s t
    (success ∧ ¬sentinel ∧ ¬error) ∨ (¬success ∧ sentinel ∧ ¬error) ∨ (¬success ∧ ¬sentinel ∧ error)

/-- The invariant holds in the state after reset. (That the strings fit rests on the model's choice of the empty string,
log entry 2; STATUS = 0 is R80.) -/
def Obligations.InvariantHoldsAfterReset : Prop := State.reset.Inv

/-- R17 and R16 over every step: reserved STATUS bits stay 0, ERR stays 0 to 4, ERR and INV are never both set, the
sticky bits cover the last outcome, and every string fits its register. -/
def Obligations.EveryStepKeepsTheInvariant : Prop :=
  ∀ s t : State, s.Inv → step s = .next t → t.Inv

/-- R72: SERR and SINV, once 1, stay 1 until H_CLRST or H_RESET. -/
def Obligations.StickyBitsFallOnlyByClearOrReset : Prop :=
  ∀ s t : State, step s = .next t → s.pending.head? ≠ some .clrst → s.pending.head? ≠ some .reset →
    (statusSerr s.status = true → statusSerr t.status = true) ∧
    (statusSinv s.status = true → statusSinv t.status = true)

/-! ### The hex transcoder -/

/-- R46: HENC writes the W/4 digits of a value in [0, 2^W), and raises RangeError for every other value. -/
def Obligations.HencWritesHexOrRaisesRangeError : Prop :=
  ∀ (rd ra : RegIdx) (w : Width) (s : State),
    (0 ≤ s.readX ra ∧ s.readX ra < 2 ^ w.bits →
      SucceedsS (.henc rd ra w) rd (hexText (w.bits / 4) (s.readX ra).toNat) s) ∧
    (s.readX ra < 0 ∨ 2 ^ w.bits ≤ s.readX ra → Raises (.henc rd ra w) 1 s)

/-- R47: HDEC writes the value of a non-empty string of hex digits, whatever the width, and raises FormatError for every
other string. A string longer than a register holds (R16) is no state of the block. -/
def Obligations.HdecWritesValueOrRaisesFormatError : Prop :=
  ∀ (rd ra : RegIdx) (w : Width) (s : State), (s.readS ra).length ≤ 56 →
    (s.readS ra ≠ [] ∧ (∀ b ∈ s.readS ra, IsHexByte b) →
      SucceedsX (.hdec rd ra w) rd (hexSum (s.readS ra)) s) ∧
    (s.readS ra = [] ∨ (∃ b ∈ s.readS ra, ¬IsHexByte b) → Raises (.hdec rd ra w) 2 s)

/-- The round trip of 40_hex_transcoder.md section 4: HENC, then HDEC of its string, gives the value back, with STATUS
showing success. -/
def Obligations.HencThenHdecGivesTheValueBack : Prop :=
  ∀ (sd xa xe : RegIdx) (w : Width) (s : State), 0 ≤ s.readX xa → s.readX xa < 2 ^ w.bits →
    ∃ t, execAll [.henc sd xa w, .hdec xe sd w] s = .next t ∧ t.readX xe = s.readX xa ∧ StatusSuccess s t

/-- Canonical text, 40_hex_transcoder.md section 4: HENC of what HDEC read is the string in upper case, without its excess
leading zeros or left-padded with `0`, to W/4 characters. -/
def Obligations.HdecThenHencGivesCanonicalText : Prop :=
  ∀ (xd sa se : RegIdx) (w : Width) (s : State),
    (s.readS sa).length ≤ 56 → s.readS sa ≠ [] → (∀ b ∈ s.readS sa, IsHexByte b) →
    hexSum (s.readS sa) < 2 ^ w.bits →
    ∃ t, execAll [.hdec xd sa w, .henc se xd w] s = .next t ∧ (t.readS se).length = w.bits / 4 ∧
      List.replicate (s.readS sa).length 0x30 ++ t.readS se =
        List.replicate (w.bits / 4) 0x30 ++ (s.readS sa).map upperHex

/-! ### XFL construction -/

/-- R50: `norm` satisfies its two loops' equations, has the closed form by the number of decimal digits, and lands in the
canonical range. -/
def Obligations.NormFollowsItsLoopsAndDigits : Prop :=
  ∀ (a : Nat) (e : Int), 0 < a →
    (10 ^ 16 - 1 < a → norm a e = norm (a / 10) (e + 1)) ∧
    (a < 10 ^ 15 → norm a e = norm (a * 10) (e - 1)) ∧
    (10 ^ 15 ≤ a ∧ a ≤ 10 ^ 16 - 1 → norm a e = (a, e)) ∧
    norm a e = normByDigits a e ∧
    10 ^ 15 ≤ (norm a e).1 ∧ (norm a e).1 ≤ 10 ^ 16 - 1

/-- R84: for the magnitude of a register, 61 divisions are enough, and then at most 15 multiplications. -/
def Obligations.NormalizationNeedsAtMost61Divisions : Prop :=
  ∀ (a : Nat) (e : Int), a ≤ 2 ^ 255 →
    divideDown a a e = divideDown 61 a e ∧ (divideDown 61 a e).1 ≤ 10 ^ 16 - 1 ∧
    (0 < a → 10 ^ 15 ≤ (multiplyUp 15 (divideDown 61 a e).1 (divideDown 61 a e).2).1)

/-- R53, with R49 to R52: a zero mantissa gives the word 0; otherwise the normalized exponent decides between the packed
word and the sentinel. -/
def Obligations.XpackPacksOrReturnsTheSentinel : Prop :=
  ∀ (rd ra rb : RegIdx) (s : State),
    let e := s.readX ra
    let m := s.readX rb
    let n := normByDigits m.natAbs e
    (m = 0 → SucceedsX (.xpack rd ra rb) rd 0 s) ∧
    (m ≠ 0 ∧ -96 ≤ n.2 ∧ n.2 ≤ 80 →
      SucceedsX (.xpack rd ra rb) rd (wordOf (decide (0 < m)) n.2 n.1) s) ∧
    (m ≠ 0 ∧ (n.2 < -96 ∨ 80 < n.2) → ReturnsSentinel (.xpack rd ra rb) rd s)

/-- Equal values give equal words, 41_xfl_pack.md section 4: if two operand pairs denote the same rational number, XPACK
has the same effect for both. -/
def Obligations.XpackOfEqualValuesIsTheSame : Prop :=
  ∀ (rd ra rb ra' rb' : RegIdx) (s : State),
    (s.readX rb : ℚ) * (10 : ℚ) ^ (s.readX ra) = (s.readX rb' : ℚ) * (10 : ℚ) ^ (s.readX ra') →
    exec (.xpack rd ra rb) s = exec (.xpack rd ra' rb') s

/-- The output set, 41_xfl_pack.md section 4: XPACK writes 0, the sentinel -1 (exactly when it sets INV), or a canonical
word, which lies in [0, 2^63). -/
def Obligations.XpackWritesZeroSentinelOrCanonicalWord : Prop :=
  ∀ (rd ra rb : RegIdx) (s : State), ∃ t, exec (.xpack rd ra rb) s = .next t ∧
    (t.readX rd = -1 ↔ statusInv t.status = true) ∧
    (t.readX rd = 0 ∨ t.readX rd = -1 ∨
      (CanonicalWord (t.readX rd) ∧ 0 ≤ t.readX rd ∧ t.readX rd < 2 ^ 63))

/-- Sign symmetry, 41_xfl_pack.md section 4, for a positive mantissa: the negated mantissa gives the word less 2^62. -/
def Obligations.XpackOfNegatedMantissaClearsTheSign : Prop :=
  ∀ (rd ra rb rb' : RegIdx) (s t : State), 0 < s.readX rb → s.readX rb' = -s.readX rb →
    exec (.xpack rd ra rb) s = .next t → statusInv t.status = false →
    SucceedsX (.xpack rd ra rb') rd (t.readX rd - 2 ^ 62) s

/-! ### XFL decoding -/

/-- R57, with R54 to R56. -/
def Obligations.XexpReadsTheExponentOrRaisesInvalidXfl : Prop :=
  ∀ (rd ra : RegIdx) (s : State),
    let raw := s.readX ra
    (raw = 0 → SucceedsX (.xexp rd ra) rd 0 s) ∧
    (0 < raw ∧ raw < 2 ^ 63 → SucceedsX (.xexp rd ra) rd (raw / 2 ^ 54 % 2 ^ 8 - 97) s) ∧
    (raw < 0 ∨ 2 ^ 63 ≤ raw → Raises (.xexp rd ra) 3 s)

/-- R58, with R54 to R56. -/
def Obligations.XmanReadsTheMantissaOrRaisesInvalidXfl : Prop :=
  ∀ (rd ra : RegIdx) (s : State),
    let raw := s.readX ra
    (0 ≤ raw ∧ raw < 2 ^ 63 → SucceedsX (.xman rd ra) rd (raw % 2 ^ 54) s) ∧
    (raw < 0 ∨ 2 ^ 63 ≤ raw → Raises (.xman rd ra) 3 s)

/-- R59, with R54 to R56: bit 62 clear means negative, but zero is not negative. -/
def Obligations.XnegReadsTheSignOrRaisesInvalidXfl : Prop :=
  ∀ (rd ra : RegIdx) (s : State),
    let raw := s.readX ra
    (raw = 0 → SucceedsX (.xneg rd ra) rd 0 s) ∧
    (0 < raw ∧ raw < 2 ^ 62 → SucceedsX (.xneg rd ra) rd 1 s) ∧
    (2 ^ 62 ≤ raw ∧ raw < 2 ^ 63 → SucceedsX (.xneg rd ra) rd 0 s) ∧
    (raw < 0 ∨ 2 ^ 63 ≤ raw → Raises (.xneg rd ra) 3 s)

/-- Decode of a constructed word, 42_xfl_unpack.md section 4: XEXP, XMAN and XNEG of a word XPACK built from a non-zero
mantissa give the normalized exponent, the normalized mantissa and the mantissa's sign. -/
def Obligations.FieldsOfAPackedWordAreTheNormalizedPair : Prop :=
  ∀ (rd ra rb re : RegIdx) (s t : State), s.readX rb ≠ 0 →
    exec (.xpack rd ra rb) s = .next t → statusInv t.status = false →
    SucceedsX (.xexp re rd) re (normByDigits (s.readX rb).natAbs (s.readX ra)).2 t ∧
    SucceedsX (.xman re rd) re (normByDigits (s.readX rb).natAbs (s.readX ra)).1 t ∧
    SucceedsX (.xneg re rd) re (if s.readX rb < 0 then 1 else 0) t

/-- A canonical word can be rebuilt from its decoded fields (R53, corner cases): XPACK of its exponent and its signed
mantissa gives the word. -/
def Obligations.CanonicalWordIsRebuiltFromItsFields : Prop :=
  ∀ (rd ra rb : RegIdx) (s : State) (raw : Nat), CanonicalWord raw →
    s.readX ra = xflExp raw → s.readX rb = (if xflNeg raw = 1 then -1 else 1) * (xflMan raw : Int) →
    SucceedsX (.xpack rd ra rb) rd raw s

/-- The sentinel -1 is rejected by HENC and FLIPX at every width and by the decode commands XEXP, XMAN and XNEG (R46, R54,
R62). XPACK is not among them: -1 is an ordinary exponent or mantissa to it (R53). -/
def Obligations.SentinelIsRejectedByHencFlipxAndDecoders : Prop :=
  ∀ (rd ra : RegIdx) (w : Width) (s : State), s.readX ra = -1 →
    Raises (.henc rd ra w) 1 s ∧ Raises (.flipx rd ra w) 1 s ∧
    Raises (.xexp rd ra) 3 s ∧ Raises (.xman rd ra) 3 s ∧ Raises (.xneg rd ra) 3 s

/-- The corrected display of the value 1.00 (R60, C3). -/
def Obligations.DisplayOfOneHasExponentMinus15 : Prop :=
  disp 0x54838D7EA4C68000 = "+1000000000000000E-15".toList

/-! ### Byte order -/

/-- R61: byte k of flip_W(v) is byte W/8-1-k of v; the groups of flips(s) stand in reverse order; both functions are
their own inverse. -/
def Obligations.FlipFunctionsReverseAndInvert : Prop :=
  (∀ (w : Width) (v : Nat), v < 2 ^ w.bits →
    flipBytes w.bytes v < 2 ^ w.bits ∧
    (∀ k < w.bytes, (bytesBE w.bytes (flipBytes w.bytes v)).getD k 0 = (bytesBE w.bytes v).getD (w.bytes - 1 - k) 0) ∧
    flipBytes w.bytes (flipBytes w.bytes v) = v) ∧
  (∀ txt : Str, txt.length % 2 = 0 →
    (flipGroups txt).length = txt.length ∧
    (∀ j < txt.length / 2,
      (flipGroups txt).getD (2 * j) 0 = txt.getD (txt.length - 2 - 2 * j) 0 ∧
      (flipGroups txt).getD (2 * j + 1) 0 = txt.getD (txt.length - 1 - 2 * j) 0) ∧
    flipGroups (flipGroups txt) = txt)

/-- R62: FLIPX writes the value whose W/8 bytes are the operand's in reverse order, and raises RangeError for an operand
outside [0, 2^W). -/
def Obligations.FlipxReversesBytesOrRaisesRangeError : Prop :=
  ∀ (rd ra : RegIdx) (w : Width) (s : State),
    let v := s.readX ra
    (0 ≤ v ∧ v < 2 ^ w.bits →
      ∃ r : Nat, r < 2 ^ w.bits ∧
        (∀ k < w.bits / 8, r / 256 ^ k % 256 = v.toNat / 256 ^ (w.bits / 8 - 1 - k) % 256) ∧
        SucceedsX (.flipx rd ra w) rd r s) ∧
    (v < 0 ∨ 2 ^ w.bits ≤ v → Raises (.flipx rd ra w) 1 s)

/-- R63: FLIPS writes the string whose 2-character groups are the operand's in reverse order, and raises FormatError for an
odd length or a byte that is no hex digit. -/
def Obligations.FlipsReversesGroupsOrRaisesFormatError : Prop :=
  ∀ (rd ra : RegIdx) (s : State),
    let txt := s.readS ra
    (txt.length % 2 = 0 ∧ (∀ b ∈ txt, IsHexByte b) →
      ∃ r : Str, r.length = txt.length ∧
        (∀ j < txt.length / 2,
          r.getD (2 * j) 0 = txt.getD (txt.length - 2 - 2 * j) 0 ∧
          r.getD (2 * j + 1) 0 = txt.getD (txt.length - 1 - 2 * j) 0) ∧
        SucceedsS (.flips rd ra) rd r s) ∧
    (txt.length % 2 = 1 ∨ (∃ b ∈ txt, ¬IsHexByte b) → Raises (.flips rd ra) 2 s)

/-- Issuing FLIPX twice in place at one width, or FLIPS twice in place, restores every register (43_byte_order.md
section 4). -/
def Obligations.FlippingTwiceInPlaceRestoresTheRegister : Prop :=
  (∀ (r : RegIdx) (w : Width) (s : State), 0 ≤ s.readX r → s.readX r < 2 ^ w.bits →
    ∃ t, execAll [.flipx r r w, .flipx r r w] s = .next t ∧ WritesX r (s.readX r) s t ∧ StatusSuccess s t) ∧
  (∀ (r : RegIdx) (s : State), (s.readS r).length % 2 = 0 → (∀ b ∈ s.readS r, IsHexByte b) →
    ∃ t, execAll [.flips r r, .flips r r] s = .next t ∧ WritesS r (s.readS r) s t ∧ StatusSuccess s t)

/-- The two flips agree, 43_byte_order.md section 4: flipping a value and encoding it gives the string that encoding it and
flipping the string gives. -/
def Obligations.FlipThenEncodeIsEncodeThenFlip : Prop :=
  ∀ (xt xa sd : RegIdx) (w : Width) (s : State), 0 ≤ s.readX xa → s.readX xa < 2 ^ w.bits →
    ∃ t u, execAll [.flipx xt xa w, .henc sd xt w] s = .next t ∧
      execAll [.henc sd xa w, .flips sd sd] s = .next u ∧ t.readS sd = u.readS sd ∧
      StatusSuccess s t ∧ StatusSuccess s u

/-! ### The wire path -/

/-- XTOWIRE of a pair XPACK packs: Xt ends as the flipped word and Sd as the hex text of the word's eight bytes in wire
order, least significant byte first (R27, R43). -/
def Obligations.XtowireWritesTheWireOrderText : Prop :=
  ∀ (sd xa xb xt : RegIdx) (s p : State), exec (.xpack xt xa xb) s = .next p → statusInv p.status = false →
    ∃ t, execAll (xtowire sd xa xb xt) s = .next t ∧ StatusSuccess s t ∧
      t.readX xt = fromBytesBE (wireBytes (p.readX xt).toNat) ∧
      t.readS sd = ((List.range 8).flatMap fun k => hexText 2 ((p.readX xt).toNat / 256 ^ k % 256))

/-- R43: XTOWIRE of a pair XPACK cannot pack: the host sees ERR = 1, INV = 0, SERR = 1, SINV = 1, Xt = -1, and Sd and every
other register unchanged. -/
def Obligations.XtowireOfAnOverflowLeavesTheStringUnchanged : Prop :=
  ∀ (sd xa xb xt : RegIdx) (s p : State), exec (.xpack xt xa xb) s = .next p → statusInv p.status = true →
    ∃ t, execAll (xtowire sd xa xb xt) s = .next t ∧ WritesX xt (-1) s t ∧
      (statusErr t.status).toNat = 1 ∧ statusInv t.status = false ∧
      statusSerr t.status = true ∧ statusSinv t.status = true

/-- XFROMWIRE after XTOWIRE gives back the word XPACK built, 0 included: the value survives the wire. -/
def Obligations.XfromwireAfterXtowireGivesThePackedWord : Prop :=
  ∀ (sd xa xb xt xd : RegIdx) (s p : State), exec (.xpack xt xa xb) s = .next p → statusInv p.status = false →
    ∃ t, execAll (xtowire sd xa xb xt ++ xfromwire xd sd) s = .next t ∧ t.readX xd = p.readX xt ∧ StatusSuccess s t

/-- XFROMWIRE of a string of hex digits whose value does not fit 64 bits raises RangeError in its FLIPX, after HDEC has
written the value (R43). -/
def Obligations.XfromwireOfALongValueRaisesRangeError : Prop :=
  ∀ (xd sa : RegIdx) (s : State), (s.readS sa).length ≤ 56 → s.readS sa ≠ [] → (∀ b ∈ s.readS sa, IsHexByte b) →
    2 ^ 64 ≤ hexSum (s.readS sa) →
    ∃ t, execAll (xfromwire xd sa) s = .next t ∧ WritesX xd (hexSum (s.readS sa)) s t ∧ StatusError 1 s t

/-! ### Registers nothing has written -/

/-- R22 and R69: a checked step faults exactly where a legal command or a host read would read an unmarked register, naming
the first one (that XPACK's first operand is Xa is the model's reading, DEDUCED, log entry 18); an illegal word is reported
before any operand read. For every other action, a read of a register that does not exist among them, and with no action
pending, it is the step. (That the step itself reads on is the model's choice, log entry 3.) -/
def Obligations.CheckedStepFaultsExactlyAtUnwrittenReads : Prop :=
  ∀ (s : State) (rest : List HostAction),
    (∀ (w : Word32) (i : Instr), s.pending = .cmd w :: rest → decode w = .ok i →
      (∀ pre r post, operandsOf i = pre ++ r :: post → (∀ q ∈ pre, s.isWritten q = true) → s.isWritten r = false →
        checkedStep s = .fault (.unwrittenRead r)) ∧
      ((∀ q ∈ operandsOf i, s.isWritten q = true) → checkedStep s = step s)) ∧
    (∀ (w : Word32) (e : DecodeError), s.pending = .cmd w :: rest → decode w = .error e → checkedStep s = step s) ∧
    (∀ i : RegIdx, s.pending = .rdx i.val :: rest →
      checkedStep s = if s.isWritten (.x i) then step s else .fault (.unwrittenRead (.x i))) ∧
    (∀ i : RegIdx, s.pending = .rds i.val :: rest →
      checkedStep s = if s.isWritten (.s i) then step s else .fault (.unwrittenRead (.s i))) ∧
    (∀ a : HostAction, s.pending = a :: rest →
      ((∃ i u, a = .wrx i u) ∨ (∃ i txt, a = .wrs i txt) ∨ a = .rdst ∨ a = .clrst ∨ a = .reset ∨
        (∃ i, 8 ≤ i ∧ (a = .rdx i ∨ a = .rds i))) →
      checkedStep s = step s) ∧
    (s.pending = [] → checkedStep s = step s)

/-- R80, "No claim may rely on it": two runs from states that differ only in the contents of registers nothing has written
end alike, and what they end in differs in nothing else. -/
def Obligations.CheckedRunsNeverSeeUnwrittenContents : Prop :=
  ∀ (n : Nat) (s t : State), AgreeOnWritten s t →
    (∃ s' t', checkedRun n s = .next s' ∧ checkedRun n t = .next t' ∧ AgreeOnWritten s' t') ∨
    (∃ f, checkedRun n s = .fault f ∧ checkedRun n t = .fault f) ∨
    (∃ r, checkedRun n s = .refused r ∧ checkedRun n t = .refused r)

/-- A run that faults nowhere is a run of the machine: checking changes no next state. -/
def Obligations.SafeRunsAreRunsOfTheMachine : Prop :=
  ∀ (n : Nat) (s t : State), checkedRun n s = .next t → Host.Core.run core n s = .next t
end

