-- ==== Sys2Proof/Laws/State.lean ====
section
/-! SUPPORT. One lemma per field per update of the state, each true by unfolding. -/

namespace Sys2Proof.Machine

@[simp] theorem State.writeXWord_xregs (s : State) (i : RegIdx) (u : XWord) : (s.writeXWord i u).xregs = s.xregs.set i u := rfl
@[simp] theorem State.writeXWord_sregs (s : State) (i : RegIdx) (u : XWord) : (s.writeXWord i u).sregs = s.sregs := rfl
@[simp] theorem State.writeXWord_status (s : State) (i : RegIdx) (u : XWord) : (s.writeXWord i u).status = s.status := rfl
@[simp] theorem State.writeXWord_xWritten (s : State) (i : RegIdx) (u : XWord) : (s.writeXWord i u).xWritten = s.xWritten.set i true := rfl
@[simp] theorem State.writeXWord_sWritten (s : State) (i : RegIdx) (u : XWord) : (s.writeXWord i u).sWritten = s.sWritten := rfl
@[simp] theorem State.writeXWord_pending (s : State) (i : RegIdx) (u : XWord) : (s.writeXWord i u).pending = s.pending := rfl
@[simp] theorem State.writeXWord_replies (s : State) (i : RegIdx) (u : XWord) : (s.writeXWord i u).replies = s.replies := rfl

@[simp] theorem State.writeX_xregs (s : State) (i : RegIdx) (v : Int) : (s.writeX i v).xregs = s.xregs.set i (BitVec.ofInt 256 v) := rfl
@[simp] theorem State.writeX_sregs (s : State) (i : RegIdx) (v : Int) : (s.writeX i v).sregs = s.sregs := rfl
@[simp] theorem State.writeX_status (s : State) (i : RegIdx) (v : Int) : (s.writeX i v).status = s.status := rfl
@[simp] theorem State.writeX_xWritten (s : State) (i : RegIdx) (v : Int) : (s.writeX i v).xWritten = s.xWritten.set i true := rfl
@[simp] theorem State.writeX_sWritten (s : State) (i : RegIdx) (v : Int) : (s.writeX i v).sWritten = s.sWritten := rfl
@[simp] theorem State.writeX_pending (s : State) (i : RegIdx) (v : Int) : (s.writeX i v).pending = s.pending := rfl
@[simp] theorem State.writeX_replies (s : State) (i : RegIdx) (v : Int) : (s.writeX i v).replies = s.replies := rfl

@[simp] theorem State.writeS_xregs (s : State) (i : RegIdx) (t : Str) : (s.writeS i t).xregs = s.xregs := rfl
@[simp] theorem State.writeS_sregs (s : State) (i : RegIdx) (t : Str) : (s.writeS i t).sregs = s.sregs.set i t := rfl
@[simp] theorem State.writeS_status (s : State) (i : RegIdx) (t : Str) : (s.writeS i t).status = s.status := rfl
@[simp] theorem State.writeS_xWritten (s : State) (i : RegIdx) (t : Str) : (s.writeS i t).xWritten = s.xWritten := rfl
@[simp] theorem State.writeS_sWritten (s : State) (i : RegIdx) (t : Str) : (s.writeS i t).sWritten = s.sWritten.set i true := rfl
@[simp] theorem State.writeS_pending (s : State) (i : RegIdx) (t : Str) : (s.writeS i t).pending = s.pending := rfl
@[simp] theorem State.writeS_replies (s : State) (i : RegIdx) (t : Str) : (s.writeS i t).replies = s.replies := rfl

@[simp] theorem State.done_xregs (s : State) : (s.done).xregs = s.xregs := rfl
@[simp] theorem State.done_sregs (s : State) : (s.done).sregs = s.sregs := rfl
@[simp] theorem State.done_status (s : State) : (s.done).status = statusDone s.status := rfl
@[simp] theorem State.done_xWritten (s : State) : (s.done).xWritten = s.xWritten := rfl
@[simp] theorem State.done_sWritten (s : State) : (s.done).sWritten = s.sWritten := rfl
@[simp] theorem State.done_pending (s : State) : (s.done).pending = s.pending := rfl
@[simp] theorem State.done_replies (s : State) : (s.done).replies = s.replies := rfl

@[simp] theorem State.raiseError_xregs (s : State) (e : CmdError) : (s.raiseError e).xregs = s.xregs := rfl
@[simp] theorem State.raiseError_sregs (s : State) (e : CmdError) : (s.raiseError e).sregs = s.sregs := rfl
@[simp] theorem State.raiseError_status (s : State) (e : CmdError) : (s.raiseError e).status = statusError e.code s.status := rfl
@[simp] theorem State.raiseError_xWritten (s : State) (e : CmdError) : (s.raiseError e).xWritten = s.xWritten := rfl
@[simp] theorem State.raiseError_sWritten (s : State) (e : CmdError) : (s.raiseError e).sWritten = s.sWritten := rfl
@[simp] theorem State.raiseError_pending (s : State) (e : CmdError) : (s.raiseError e).pending = s.pending := rfl
@[simp] theorem State.raiseError_replies (s : State) (e : CmdError) : (s.raiseError e).replies = s.replies := rfl

@[simp] theorem State.returnSentinel_xregs (s : State) (i : RegIdx) : (s.returnSentinel i).xregs = s.xregs.set i (BitVec.ofInt 256 sentinelValue) := rfl
@[simp] theorem State.returnSentinel_sregs (s : State) (i : RegIdx) : (s.returnSentinel i).sregs = s.sregs := rfl
@[simp] theorem State.returnSentinel_status (s : State) (i : RegIdx) : (s.returnSentinel i).status = statusSentinel s.status := rfl
@[simp] theorem State.returnSentinel_xWritten (s : State) (i : RegIdx) : (s.returnSentinel i).xWritten = s.xWritten.set i true := rfl
@[simp] theorem State.returnSentinel_sWritten (s : State) (i : RegIdx) : (s.returnSentinel i).sWritten = s.sWritten := rfl
@[simp] theorem State.returnSentinel_pending (s : State) (i : RegIdx) : (s.returnSentinel i).pending = s.pending := rfl
@[simp] theorem State.returnSentinel_replies (s : State) (i : RegIdx) : (s.returnSentinel i).replies = s.replies := rfl

@[simp] theorem State.endCommand_doneX (s : State) (rd : RegIdx) (v : Int) :
    s.endCommand rd (.doneX v) = (s.writeX rd v).done := rfl
@[simp] theorem State.endCommand_doneS (s : State) (rd : RegIdx) (t : Str) :
    s.endCommand rd (.doneS t) = (s.writeS rd t).done := rfl
@[simp] theorem State.endCommand_sentinel (s : State) (rd : RegIdx) :
    s.endCommand rd .sentinel = s.returnSentinel rd := rfl
@[simp] theorem State.endCommand_error (s : State) (rd : RegIdx) (e : CmdError) :
    s.endCommand rd (.error e) = s.raiseError e := rfl

@[simp] theorem State.reply_xregs (s : State) (r : HostReply) : (s.reply r).xregs = s.xregs := rfl
@[simp] theorem State.reply_sregs (s : State) (r : HostReply) : (s.reply r).sregs = s.sregs := rfl
@[simp] theorem State.reply_status (s : State) (r : HostReply) : (s.reply r).status = s.status := rfl
@[simp] theorem State.reply_xWritten (s : State) (r : HostReply) : (s.reply r).xWritten = s.xWritten := rfl
@[simp] theorem State.reply_sWritten (s : State) (r : HostReply) : (s.reply r).sWritten = s.sWritten := rfl
@[simp] theorem State.reply_pending (s : State) (r : HostReply) : (s.reply r).pending = s.pending := rfl
@[simp] theorem State.reply_replies (s : State) (r : HostReply) : (s.reply r).replies = s.replies ++ [r] := rfl

@[simp] theorem State.withFetchWord_xregs (s : State) (n w : Nat) : (s.withFetchWord n w).xregs = s.xregs := rfl
@[simp] theorem State.withFetchWord_sregs (s : State) (n w : Nat) : (s.withFetchWord n w).sregs = s.sregs := rfl
@[simp] theorem State.withFetchWord_status (s : State) (n w : Nat) : (s.withFetchWord n w).status = s.status := rfl
@[simp] theorem State.withFetchWord_xWritten (s : State) (n w : Nat) : (s.withFetchWord n w).xWritten = s.xWritten := rfl
@[simp] theorem State.withFetchWord_sWritten (s : State) (n w : Nat) : (s.withFetchWord n w).sWritten = s.sWritten := rfl
@[simp] theorem State.withFetchWord_pending (s : State) (n w : Nat) : (s.withFetchWord n w).pending = .cmd (tableWord n w) :: s.pending := rfl
@[simp] theorem State.withFetchWord_replies (s : State) (n w : Nat) : (s.withFetchWord n w).replies = s.replies := rfl

@[simp] theorem resetBlock_xregs (s : State) : (resetBlock s).xregs = Vector.replicate 8 resetXWord := rfl
@[simp] theorem resetBlock_sregs (s : State) : (resetBlock s).sregs = Vector.replicate 8 resetStr := rfl
@[simp] theorem resetBlock_status (s : State) : (resetBlock s).status = 0 := rfl
@[simp] theorem resetBlock_xWritten (s : State) : (resetBlock s).xWritten = Vector.replicate 8 false := rfl
@[simp] theorem resetBlock_sWritten (s : State) : (resetBlock s).sWritten = Vector.replicate 8 false := rfl
@[simp] theorem resetBlock_pending (s : State) : (resetBlock s).pending = s.pending := rfl
@[simp] theorem resetBlock_replies (s : State) : (resetBlock s).replies = s.replies := rfl

end Sys2Proof.Machine
end

