-- ==== Sys2Proof/Laws/Ops.lean ====
section
/-! SUPPORT. What reading a register after a write gives, and which bits each STATUS update changes. -/

namespace Sys2Proof.Machine

/-- A value of the register range survives its two's-complement storage (R15). -/
theorem toInt_ofInt_of_range {v : Int} (lo : -2 ^ 255 ≤ v) (hi : v < 2 ^ 255) :
    (BitVec.ofInt 256 v).toInt = v := by
  rw [BitVec.toInt_ofInt]
  exact Int.bmod_eq_of_le (by norm_num; linarith) (by norm_num; linarith)

/-- Every integer register holds a value of the register range (R15). -/
theorem State.readX_range (s : State) (i : RegIdx) : -2 ^ 255 ≤ s.readX i ∧ s.readX i < 2 ^ 255 := by
  have lo := BitVec.le_toInt (s.xregs[i])
  have hi := BitVec.toInt_lt (x := s.xregs[i])
  exact ⟨by simpa [State.readX] using lo, by simpa [State.readX] using hi⟩

/-- Read after write, integer registers. -/
theorem State.readX_writeX (s : State) (i j : RegIdx) (v : Int) :
    (s.writeX i v).readX j = if i = j then (BitVec.ofInt 256 v).toInt else s.readX j := by
  simp only [State.readX, State.writeX_xregs, Fin.getElem_fin, Vector.getElem_set, Fin.ext_iff]
  split <;> rfl

/-- Read after write of a value in the register range. -/
theorem State.readX_writeX_same (s : State) (i : RegIdx) {v : Int} (lo : -2 ^ 255 ≤ v) (hi : v < 2 ^ 255) :
    (s.writeX i v).readX i = v := by
  rw [State.readX_writeX, if_pos rfl, toInt_ofInt_of_range lo hi]

/-- Read after write, string registers. -/
theorem State.readS_writeS (s : State) (i j : RegIdx) (t : Str) :
    (s.writeS i t).readS j = if i = j then t else s.readS j := by
  simp only [State.readS, State.writeS_sregs, Fin.getElem_fin, Vector.getElem_set, Fin.ext_iff]

@[simp] theorem State.readS_writeX (s : State) (i j : RegIdx) (v : Int) : (s.writeX i v).readS j = s.readS j := rfl
@[simp] theorem State.readX_writeS (s : State) (i j : RegIdx) (t : Str) : (s.writeS i t).readX j = s.readX j := rfl
@[simp] theorem State.readX_done (s : State) (j : RegIdx) : s.done.readX j = s.readX j := rfl
@[simp] theorem State.readS_done (s : State) (j : RegIdx) : s.done.readS j = s.readS j := rfl
@[simp] theorem State.readX_raiseError (s : State) (e : CmdError) (j : RegIdx) :
    (s.raiseError e).readX j = s.readX j := rfl
@[simp] theorem State.readS_raiseError (s : State) (e : CmdError) (j : RegIdx) :
    (s.raiseError e).readS j = s.readS j := rfl
@[simp] theorem State.readS_returnSentinel (s : State) (i j : RegIdx) :
    (s.returnSentinel i).readS j = s.readS j := rfl

theorem State.readX_returnSentinel (s : State) (i j : RegIdx) :
    (s.returnSentinel i).readX j = if i = j then -1 else s.readX j := by
  have h := State.readX_writeX s i j sentinelValue
  rw [show (BitVec.ofInt 256 sentinelValue).toInt = -1 from by decide] at h
  exact h

/-- Every written mark after a write of Xi. -/
theorem State.isWritten_writeX (s : State) (i : RegIdx) (v : Int) (r : Reg) :
    (s.writeX i v).isWritten r = (decide (r = .x i) || s.isWritten r) := by
  cases r with
  | x j =>
    simp only [State.isWritten, State.writeX_xWritten, Fin.getElem_fin, Vector.getElem_set, Reg.x.injEq, Fin.ext_iff]
    by_cases h : i.val = j.val <;> simp [h, eq_comm]
  | s j => simp [State.isWritten]

/-- Every written mark after a write of Si. -/
theorem State.isWritten_writeS (s : State) (i : RegIdx) (t : Str) (r : Reg) :
    (s.writeS i t).isWritten r = (decide (r = .s i) || s.isWritten r) := by
  cases r with
  | x j => simp [State.isWritten]
  | s j =>
    simp only [State.isWritten, State.writeS_sWritten, Fin.getElem_fin, Vector.getElem_set, Reg.s.injEq, Fin.ext_iff]
    by_cases h : i.val = j.val <;> simp [h, eq_comm]

end Sys2Proof.Machine
end

