-- ==== Sys2Proof/Laws/Status.lean ====
section
/-! SUPPORT. What each STATUS update does to each field (10_state.md R17, 60_exceptions.md R66 to R68). -/

namespace Sys2Proof.Machine

/-- A bit of STATUS after a successful command. -/
theorem getLsbD_statusDone (w : Word32) (k : Nat) :
    (statusDone w).getLsbD k = (w.getLsbD k && (0xFFFFFFE0#32).getLsbD k) := by
  simp only [statusDone, BitVec.getLsbD_and]

/-- A bit of STATUS after an error. -/
theorem getLsbD_statusError (c : BitVec 4) (w : Word32) (k : Nat) :
    (statusError c w).getLsbD k =
      (w.getLsbD k && (0xFFFFFFE0#32).getLsbD k || (0x00000100#32).getLsbD k || decide (k < 32) && c.getLsbD k) := by
  simp only [statusError, BitVec.getLsbD_or, BitVec.getLsbD_and, BitVec.getLsbD_setWidth]

/-- A bit of STATUS after the sentinel. -/
theorem getLsbD_statusSentinel (w : Word32) (k : Nat) :
    (statusSentinel w).getLsbD k =
      (w.getLsbD k && (0xFFFFFFE0#32).getLsbD k || (0x00000210#32).getLsbD k) := by
  simp only [statusSentinel, BitVec.getLsbD_or, BitVec.getLsbD_and]

/-- Four bits are the nibble whose bits they are. -/
theorem eq_of_four_bits {a b : BitVec 4} (h : ∀ k < 4, a.getLsbD k = b.getLsbD k) : a = b :=
  BitVec.eq_of_getLsbD_eq fun k hk => h k hk

theorem getLsbD_statusErr (w : Word32) (k : Nat) : (statusErr w).getLsbD k = (decide (k < 4) && w.getLsbD k) := by
  simp only [statusErr, BitVec.getLsbD_extractLsb', Nat.zero_add]

@[simp] theorem statusErr_statusDone (w : Word32) : statusErr (statusDone w) = 0 := by
  apply eq_of_four_bits
  intro k hk
  rw [getLsbD_statusErr, getLsbD_statusDone]
  generalize w.getLsbD k = b
  revert k b; decide

@[simp] theorem statusErr_statusError (c : BitVec 4) (w : Word32) : statusErr (statusError c w) = c := by
  apply eq_of_four_bits
  intro k hk
  rw [getLsbD_statusErr, getLsbD_statusError]
  generalize w.getLsbD k = b, c.getLsbD k = d
  revert k b d; decide

@[simp] theorem statusErr_statusSentinel (w : Word32) : statusErr (statusSentinel w) = 0 := by
  apply eq_of_four_bits
  intro k hk
  rw [getLsbD_statusErr, getLsbD_statusSentinel]
  generalize w.getLsbD k = b
  revert k b; decide

@[simp] theorem statusInv_statusDone (w : Word32) : statusInv (statusDone w) = false := by
  unfold statusInv
  rw [getLsbD_statusDone]
  generalize w.getLsbD 4 = b
  revert b; decide

@[simp] theorem statusInv_statusError (c : BitVec 4) (w : Word32) : statusInv (statusError c w) = false := by
  unfold statusInv
  rw [getLsbD_statusError]
  rw [BitVec.getLsbD_of_ge c 4 (by decide)]
  generalize w.getLsbD 4 = b
  revert b; decide

@[simp] theorem statusInv_statusSentinel (w : Word32) : statusInv (statusSentinel w) = true := by
  unfold statusInv
  rw [getLsbD_statusSentinel]
  generalize w.getLsbD 4 = b
  revert b; decide

@[simp] theorem statusSerr_statusDone (w : Word32) : statusSerr (statusDone w) = statusSerr w := by
  unfold statusSerr
  rw [getLsbD_statusDone]
  generalize w.getLsbD 8 = b
  revert b; decide

@[simp] theorem statusSerr_statusError (c : BitVec 4) (w : Word32) : statusSerr (statusError c w) = true := by
  unfold statusSerr
  rw [getLsbD_statusError]
  rw [BitVec.getLsbD_of_ge c 8 (by decide)]
  generalize w.getLsbD 8 = b
  revert b; decide

@[simp] theorem statusSerr_statusSentinel (w : Word32) : statusSerr (statusSentinel w) = statusSerr w := by
  unfold statusSerr
  rw [getLsbD_statusSentinel]
  generalize w.getLsbD 8 = b
  revert b; decide

@[simp] theorem statusSinv_statusDone (w : Word32) : statusSinv (statusDone w) = statusSinv w := by
  unfold statusSinv
  rw [getLsbD_statusDone]
  generalize w.getLsbD 9 = b
  revert b; decide

@[simp] theorem statusSinv_statusError (c : BitVec 4) (w : Word32) : statusSinv (statusError c w) = statusSinv w := by
  unfold statusSinv
  rw [getLsbD_statusError]
  rw [BitVec.getLsbD_of_ge c 9 (by decide)]
  generalize w.getLsbD 9 = b
  revert b; decide

@[simp] theorem statusSinv_statusSentinel (w : Word32) : statusSinv (statusSentinel w) = true := by
  unfold statusSinv
  rw [getLsbD_statusSentinel]
  generalize w.getLsbD 9 = b
  revert b; decide

/-- The reserved bits survive every update. -/
@[simp] theorem statusReserved_statusDone (w : Word32) : statusReserved (statusDone w) = statusReserved w := by
  apply BitVec.eq_of_getLsbD_eq
  intro k hk
  simp only [statusReserved, BitVec.getLsbD_and, getLsbD_statusDone]
  generalize w.getLsbD k = b
  revert k b; decide

@[simp] theorem statusReserved_statusError (c : BitVec 4) (w : Word32) :
    statusReserved (statusError c w) = statusReserved w := by
  apply BitVec.eq_of_getLsbD_eq
  intro k hk
  simp only [statusReserved, BitVec.getLsbD_and, getLsbD_statusError]
  by_cases h : k < 4
  · generalize w.getLsbD k = b, c.getLsbD k = d
    revert b d
    have small : ∀ k < 4, ∀ b d : Bool,
        ((b && (0xFFFFFFE0#32).getLsbD k || (0x00000100#32).getLsbD k || decide (k < 32) && d) &&
          (0xFFFFFCE0#32).getLsbD k) = (b && (0xFFFFFCE0#32).getLsbD k) := by decide
    exact small k h
  · rw [BitVec.getLsbD_of_ge c k (by omega)]
    generalize w.getLsbD k = b
    revert b
    have large : ∀ k < 32, ∀ b : Bool,
        ((b && (0xFFFFFFE0#32).getLsbD k || (0x00000100#32).getLsbD k || decide (k < 32) && false) &&
          (0xFFFFFCE0#32).getLsbD k) = (b && (0xFFFFFCE0#32).getLsbD k) := by decide
    exact large k hk

@[simp] theorem statusReserved_statusSentinel (w : Word32) : statusReserved (statusSentinel w) = statusReserved w := by
  apply BitVec.eq_of_getLsbD_eq
  intro k hk
  simp only [statusReserved, BitVec.getLsbD_and, getLsbD_statusSentinel]
  generalize w.getLsbD k = b
  revert k b; decide

end Sys2Proof.Machine
end

