-- ==== Sys2Proof/Laws/Exec.lean ====
section
/-! SUPPORT. Once and for all: what a command, a host action and a step can do. -/

namespace Sys2Proof.Machine

/-- How HENC ends, by its range check. -/
theorem hencEnd_cases (w : Width) (v : Int) :
    (inWidth w v = true ∧ hencEnd w v = .doneS (hexString w.digits v.toNat)) ∨
    (inWidth w v = false ∧ hencEnd w v = .error .rangeError) := by
  unfold hencEnd; cases inWidth w v <;> simp

/-- How HDEC ends, by the string's form. -/
theorem hdecEnd_cases (t : Str) :
    (t ≠ [] ∧ t.all isHexDigit = true ∧ hdecEnd t = .doneX (hexValue t)) ∨
    ((t = [] ∨ t.all isHexDigit = false) ∧ hdecEnd t = .error .formatError) := by
  unfold hdecEnd
  by_cases h : t = []
  · exact .inr ⟨.inl h, if_pos h⟩
  · cases ha : t.all isHexDigit
    · exact .inr ⟨.inr rfl, by simp [h]⟩
    · exact .inl ⟨h, rfl, by simp [h]⟩

/-- XPACK never raises an error. -/
theorem makeXfl_cases (e m : Int) :
    (∃ raw : Nat, makeXfl e m = .doneX raw) ∨ makeXfl e m = .sentinel := by
  unfold makeXfl
  split
  · exact .inl ⟨0, rfl⟩
  · dsimp only
    split
    · exact .inl ⟨0, rfl⟩
    · split
      · exact .inr rfl
      · exact .inl ⟨_, rfl⟩

/-- How XEXP, XMAN and XNEG end, by the decode domain. -/
theorem decodeEnd_cases (field : Nat → Int) (raw : Int) :
    (inXflDomain raw = true ∧ decodeEnd field raw = .doneX (field raw.toNat)) ∨
    (inXflDomain raw = false ∧ decodeEnd field raw = .error .invalidXflError) := by
  unfold decodeEnd; cases inXflDomain raw <;> simp

/-- How FLIPX ends, by its range check. -/
theorem flipxEnd_cases (w : Width) (v : Int) :
    (inWidth w v = true ∧ flipxEnd w v = .doneX (flipBytes w.bytes v.toNat)) ∨
    (inWidth w v = false ∧ flipxEnd w v = .error .rangeError) := by
  unfold flipxEnd; cases inWidth w v <;> simp

/-- How FLIPS ends, by the string's form. -/
theorem flipsEnd_cases (t : Str) :
    (t.length % 2 = 0 ∧ t.all isHexDigit = true ∧ flipsEnd t = .doneS (flipGroups t)) ∨
    ((t.length % 2 = 1 ∨ t.all isHexDigit = false) ∧ flipsEnd t = .error .formatError) := by
  unfold flipsEnd
  by_cases h : t.length % 2 = 0
  · cases ha : t.all isHexDigit
    · exact .inr ⟨.inr rfl, by simp [h]⟩
    · exact .inl ⟨h, rfl, by simp [h]⟩
  · exact .inr ⟨.inl (by omega), by simp [h]⟩

/-- A command writes its destination and ends with `done`, or is XPACK and returns the sentinel, or raises an error; it
does nothing else, and it always answers a next state. -/
theorem exec_cases (i : Instr) (s : State) :
    (∃ rd v, destinationOf i = .x rd ∧ exec i s = .next (s.writeX rd v).done) ∨
    (∃ rd t, destinationOf i = .s rd ∧ exec i s = .next (s.writeS rd t).done) ∨
    (∃ rd ra rb, i = .xpack rd ra rb ∧ exec i s = .next (s.returnSentinel rd)) ∨
    (∃ e, exec i s = .next (s.raiseError e)) := by
  cases i with
  | henc rd ra w =>
    simp only [exec, execHenc]
    obtain ⟨-, h⟩ | ⟨-, h⟩ := hencEnd_cases w (s.readX ra) <;> rw [h]
    · exact .inr (.inl ⟨rd, _, rfl, rfl⟩)
    · exact .inr (.inr (.inr ⟨_, rfl⟩))
  | hdec rd ra w =>
    simp only [exec, execHdec]
    obtain ⟨-, -, h⟩ | ⟨-, h⟩ := hdecEnd_cases (s.readS ra) <;> rw [h]
    · exact .inl ⟨rd, _, rfl, rfl⟩
    · exact .inr (.inr (.inr ⟨_, rfl⟩))
  | xpack rd ra rb =>
    simp only [exec, execXpack]
    obtain ⟨raw, h⟩ | h := makeXfl_cases (s.readX ra) (s.readX rb) <;> rw [h]
    · exact .inl ⟨rd, _, rfl, rfl⟩
    · exact .inr (.inr (.inl ⟨rd, ra, rb, rfl, rfl⟩))
  | xexp rd ra =>
    simp only [exec, execXexp]
    obtain ⟨-, h⟩ | ⟨-, h⟩ := decodeEnd_cases xflExp (s.readX ra) <;> rw [h]
    · exact .inl ⟨rd, _, rfl, rfl⟩
    · exact .inr (.inr (.inr ⟨_, rfl⟩))
  | xman rd ra =>
    simp only [exec, execXman]
    obtain ⟨-, h⟩ | ⟨-, h⟩ := decodeEnd_cases (fun raw => xflMan raw) (s.readX ra) <;> rw [h]
    · exact .inl ⟨rd, _, rfl, rfl⟩
    · exact .inr (.inr (.inr ⟨_, rfl⟩))
  | xneg rd ra =>
    simp only [exec, execXneg]
    obtain ⟨-, h⟩ | ⟨-, h⟩ := decodeEnd_cases (fun raw => xflNeg raw) (s.readX ra) <;> rw [h]
    · exact .inl ⟨rd, _, rfl, rfl⟩
    · exact .inr (.inr (.inr ⟨_, rfl⟩))
  | flipx rd ra w =>
    simp only [exec, execFlipx]
    obtain ⟨-, h⟩ | ⟨-, h⟩ := flipxEnd_cases w (s.readX ra) <;> rw [h]
    · exact .inl ⟨rd, _, rfl, rfl⟩
    · exact .inr (.inr (.inr ⟨_, rfl⟩))
  | flips rd ra =>
    simp only [exec, execFlips]
    obtain ⟨-, -, h⟩ | ⟨-, h⟩ := flipsEnd_cases (s.readS ra) <;> rw [h]
    · exact .inr (.inl ⟨rd, _, rfl, rfl⟩)
    · exact .inr (.inr (.inr ⟨_, rfl⟩))

/-- H_CMD runs the command the word decodes to, or raises IllegalCommand. -/
theorem runCommand_cases (w : Word32) (s : State) :
    (∃ i, decode w = .ok i ∧ runCommand w s = exec i s) ∨
    (∃ e, decode w = .error e ∧ runCommand w s = .next (s.raiseError .illegalCommand)) := by
  unfold runCommand
  cases h : decode w with
  | ok i => exact .inl ⟨i, rfl, rfl⟩
  | error e => exact .inr ⟨e, rfl, rfl⟩

/-- A host action that answers a next state is inside the table and had its effect. -/
theorem perform_next {a : HostAction} {s t : State} (h : perform a s = .next t) :
    a.inTable = true ∧ actionEffect a s = .next t := by
  unfold perform at h
  split at h
  · exact ⟨‹_›, h⟩
  · cases h

/-- With an action pending, a step performs it on the state without it. -/
theorem step_of_pending {s : State} {a : HostAction} {rest : List HostAction} (h : s.pending = a :: rest) :
    step s = perform a { s with pending := rest } := by
  simp only [step, h]

/-- With no action pending, a step changes nothing. -/
theorem step_of_idle {s : State} (h : s.pending = []) : step s = .next s := by
  simp only [step, h]

/-- A step that answers a next state is idle, or performs the first pending action. -/
theorem step_next {s t : State} (h : step s = .next t) :
    (s.pending = [] ∧ t = s) ∨
    (∃ a rest, s.pending = a :: rest ∧ a.inTable = true ∧ actionEffect a { s with pending := rest } = .next t) := by
  cases hp : s.pending with
  | nil =>
    rw [step_of_idle hp] at h
    cases h
    exact .inl ⟨rfl, rfl⟩
  | cons a rest =>
    rw [step_of_pending hp] at h
    exact .inr ⟨a, rest, rfl, perform_next h⟩

end Sys2Proof.Machine
end

