-- ==== Sys2Proof/Laws/PerInstr.lean ====
section
/-! SUPPORT. Statements made for every command, one lemma per constructor: the encoder writes only legal words, as the
match and mask table of R39 has them. -/

namespace Sys2Proof.Laws.EncodesLegalWord

/-- The word of a command is accepted by the opcode table (R39, R42). -/
def Statement (i : Instr) : Prop := legalWord (encode i) = true

theorem henc : ∀ (rd ra : RegIdx) (w : Width), Statement (.henc rd ra w) := by
  intro rd ra w; cases w <;> revert rd ra <;> unfold Statement <;> decide +kernel

theorem hdec : ∀ (rd ra : RegIdx) (w : Width), Statement (.hdec rd ra w) := by
  intro rd ra w; cases w <;> revert rd ra <;> unfold Statement <;> decide +kernel

theorem xpack : ∀ rd ra rb : RegIdx, Statement (.xpack rd ra rb) := by
  unfold Statement; decide +kernel

theorem xexp : ∀ rd ra : RegIdx, Statement (.xexp rd ra) := by
  unfold Statement; decide +kernel

theorem xman : ∀ rd ra : RegIdx, Statement (.xman rd ra) := by
  unfold Statement; decide +kernel

theorem xneg : ∀ rd ra : RegIdx, Statement (.xneg rd ra) := by
  unfold Statement; decide +kernel

theorem flipx : ∀ (rd ra : RegIdx) (w : Width), Statement (.flipx rd ra w) := by
  intro rd ra w; cases w <;> revert rd ra <;> unfold Statement <;> decide +kernel

theorem flips : ∀ rd ra : RegIdx, Statement (.flips rd ra) := by
  unfold Statement; decide +kernel

end Sys2Proof.Laws.EncodesLegalWord
end

