-- ==== Sys2Proof/Tests/Slice0.lean ====
section
/-! SUPPORT. The model's own tests: single steps whose results are the vectors of 95_test_vectors.md, words written out from
30_encoding.md, ill-formed terms each check refuses, and a witness for the hypotheses of each statement. -/

namespace Sys2Proof.Tests
open Sys2Proof Sys2Proof.Machine

/-- The state a step or a command ends in, if it ends in one. -/
def after (o : Host.Outcome State Fault Refusal) : Option State :=
  match o with
  | .next t => some t
  | .fault _ => none
  | .refused _ => none

/-- After reset the host has written X[i]. -/
def withX (i : RegIdx) (v : Int) : State := State.reset.writeX i v

/-- After reset the host has written S[i]. -/
def withS (i : RegIdx) (t : Str) : State := State.reset.writeS i t

/-- The ASCII bytes of a text. -/
def txt (l : List Char) : Str := l.map fun c => BitVec.ofNat 8 c.toNat

/-- After reset, with these host actions pending. -/
def pend (as : List HostAction) : State := { State.reset with pending := as }

/-! ### WellFormed: an ill-formed term for each check -/

theorem test_string_of_56_fits : Str.fits (List.replicate 56 0x46) = true := by decide
theorem test_string_of_57_does_not_fit : Str.fits (List.replicate 57 0x46) = false := by decide
theorem test_register_8_is_refused : regNumberOk 7 = true ∧ regNumberOk 8 = false := by decide

/-- V-E1 to V-E12: each reserved or illegal field makes the word illegal. -/
theorem test_illegal_words_are_refused :
    [0x00000000#32, 0x00000009#32, 0x000000FF#32, 0x00100001#32, 0x000A0801#32, 0x000E0807#32, 0x00060803#32,
      0x00004004#32, 0x00020005#32, 0x00004002#32, 0x80000008#32, 0xFFFFFFFF#32].all (fun w => !legalWord w) = true := by
  decide

/-! ### Decode: words written out bit by bit from the patterns of R39 -/

theorem test_decode_henc : decode 0b00000000000000000000100000000001 = .ok (.henc 0 1 .w8) := by decide
theorem test_decode_hdec : decode 0b00000000000001100000110000000010 = .ok (.hdec 4 1 .w64) := by decide
theorem test_decode_xpack : decode 0b00000000000000001000100000000011 = .ok (.xpack 0 1 2) := by decide
theorem test_decode_xexp : decode 0b00000000000000000010010100000100 = .ok (.xexp 5 4) := by decide
theorem test_decode_xman : decode 0b00000000000000000010011000000101 = .ok (.xman 6 4) := by decide
theorem test_decode_xneg : decode 0b00000000000000000010011100000110 = .ok (.xneg 7 4) := by decide
theorem test_decode_flipx : decode 0b00000000000010000000100000000111 = .ok (.flipx 0 1 .w224) := by decide
theorem test_decode_flips : decode 0b00000000000000000000000100001000 = .ok (.flips 1 0) := by decide

/-- R40's checks in their order: RSV, OP, WC, RB. -/
theorem test_decode_rejects_by_name :
    decode 0x00100000 = .error .reservedNotZero ∧ decode 0x00000009 = .error .opcodeIllegal ∧
    decode 0x000A4801 = .error .widthCodeReserved ∧ decode 0x00064804 = .error .widthCodeUnused ∧
    decode 0x00004002 = .error .rbUnused := by decide

theorem test_decodeTableWord : decodeTableWord 32 0x00008803 = some (.xpack 0 1 2) := by decide
theorem test_encode_program_words :
    encode (.flipx 3 0 .w64) = 0x00060307 ∧ encode (.henc 1 5 .w16) = 0x00022901 := by decide

/-! ### One command each: the vectors of section 2 -/

/-- V-H7. -/
theorem test_henc_upper_case :
    (after (exec (.henc 0 1 .w32) (withX 1 0xDEADBEEF))).map (·.readS 0) = some (txt "DEADBEEF".toList) := by decide

/-- V-H16: the sentinel is rejected and S0 keeps its old value. -/
theorem test_henc_rejects_the_sentinel :
    (after (exec (.henc 0 1 .w64) ((withX 1 (-1)).writeS 0 (txt "AB".toList)))).map (fun t => (t.readS 0, t.status))
      = some (txt "AB".toList, 0x101) := by decide

/-- V-D12. -/
theorem test_hdec_mixed_case :
    (after (exec (.hdec 0 1 .w32) (withS 1 (txt "DeadBeef".toList)))).map (·.readX 0) = some 0xDEADBEEF := by decide

/-- V-D15: byte 0xFF is no hex digit, and X0 is kept. -/
theorem test_hdec_rejects_a_high_byte :
    (after (exec (.hdec 0 1 .w8) ((withS 1 [0x46, 0xFF]).writeX 0 7))).map (fun t => (t.readX 0, t.status))
      = some (7, 0x102) := by decide

/-- V-X25: 61 divisions of 2^255. -/
theorem test_xpack_most_negative_mantissa :
    (after (exec (.xpack 0 1 2) ((withX 1 0).writeX 2 (-2 ^ 255)))).map (·.readX 0) = some 0x2794919D5556EB51 := by decide

/-- V-X16: underflow is the sentinel, not zero. -/
theorem test_xpack_underflow_is_the_sentinel :
    (after (exec (.xpack 0 1 2) ((withX 1 (-97)).writeX 2 (10 ^ 15)))).map (fun t => (t.readX 0, t.status))
      = some (-1, 0x210) := by decide

/-- V-U1: zero decodes to exponent 0. -/
theorem test_xexp_zero : (after (exec (.xexp 5 4) (withX 4 0))).map (·.readX 5) = some 0 := by decide

/-- V-U13. -/
theorem test_xexp_largest_raw : (after (exec (.xexp 5 4) (withX 4 (2 ^ 63 - 1)))).map (·.readX 5) = some 158 := by decide

/-- V-U24: source and destination the same register. -/
theorem test_xman_in_place :
    (after (exec (.xman 4 4) (withX 4 0x1551C37937E08000))).map (·.readX 4) = some 5000000000000000 := by decide

/-- V-U11. -/
theorem test_xman_rejects_bit_63 : (after (exec (.xman 5 4) (withX 4 (2 ^ 63)))).map (·.status) = some 0x103 := by decide

/-- V-U16. -/
theorem test_xneg_of_one : (after (exec (.xneg 5 4) (withX 4 1))).map (·.readX 5) = some 1 := by decide

/-- V-U6. -/
theorem test_xneg_of_positive :
    (after (exec (.xneg 5 4) (withX 4 0x54838D7EA4C68000))).map (·.readX 5) = some 0 := by decide

/-- V-F1. -/
theorem test_flipx_to_wire_order :
    (after (exec (.flipx 0 1 .w64) (withX 1 0x54838D7EA4C68000))).map (·.readX 0) = some 0x0080C6A47E8D8354 := by decide

/-- V-F7. -/
theorem test_flipx_224 : (after (exec (.flipx 0 1 .w224) (withX 1 1))).map (·.readX 0) = some (2 ^ 216) := by decide

/-- V-F16. -/
theorem test_flips_keeps_case :
    (after (exec (.flips 1 0) (withS 0 (txt "aBcD".toList)))).map (·.readS 1) = some (txt "cDaB".toList) := by decide

/-- V-F17. -/
theorem test_flips_rejects_odd_length :
    (after (exec (.flips 1 0) (withS 0 (txt "ABC".toList)))).map (·.status) = some 0x102 := by decide

/-! ### STATUS, steps and host actions -/

/-- Steps 3 and 4 of the accumulation table 2.7. -/
theorem test_status_accumulates : statusError 1 0x200 = 0x301 ∧ statusDone 0x301 = 0x300 := by decide

/-- V-E2 as a step: an illegal word writes no register. -/
theorem test_step_illegal_word :
    after (step (pend [.cmd 0x00000009])) = some { State.reset with status := 0x104 } := by decide

/-- The command word is the very next thing a step runs. -/
theorem test_step_runs_the_fetched_word :
    (after (step ((withX 1 255).withFetchWord 32 0x00000801))).map (·.readS 0) = some (txt "FF".toList) := by decide

theorem test_step_reads_status :
    (after (step { pend [.rdst] with status := 0x301 })).map (·.replies) = some [.status 0x301] := by decide

/-- V-X31 and P6, line 4: X2 was never written. -/
theorem test_checked_step_unwritten_read :
    (match checkedStep { withX 1 0 with pending := [.cmd 0x00008803] } with
      | .fault (.unwrittenRead (.x i)) => i == 2
      | _ => false) = true := by decide

/-- P6, line 3: decode checks come before the operand reads. -/
theorem test_checked_step_decodes_first :
    (after (checkedStep (pend [.cmd 0x00108803]))).map (·.status) = some 0x104 := by decide

/-! ### Notation -/

/-- The corrected XTV scenario of section 1.7. -/
theorem test_display_of_minus_one : disp 0x14838D7EA4C68000 = "-1000000000000000E-15".toList := by decide


theorem test_assemble_program_lines :
    assemble ["  FLIPX X3, X0, 64 ; to wire order".toList, "henc s0,x3,64".toList, "; nothing".toList]
      = some [.cmd 0x00060307, .cmd 0x00061801] := by decide
theorem test_assemble_directives :
    assemble [".setx X1, -2".toList, ".setx X2, 2^32".toList, ".sets S4, \"F;F\"".toList, ".word 0x00000009".toList]
      = some [.wrx 1 (BitVec.ofInt 256 (-2)), .wrx 2 0x100000000, .wrs 4 [0x46, 0x3B, 0x46], .cmd 9] := by decide
theorem test_assemble_pseudo :
    assembleLine "XFROMWIRE X4, S1".toList = some [.cmd 0x00060C02, .cmd 0x00062407] := by decide
theorem test_assembly_errors :
    assembleLine "HENC X1, X2, 8".toList = none ∧ assembleLine "HENC S1, X2, 9".toList = none ∧
    assembleLine ".setx X0, 2^255".toList = none ∧ assembleLine ".word 2^32".toList = none := by decide

/-! ### Witnesses: a state and operands that meet the hypotheses of each statement, clause by clause at its boundary -/

/-- After reset, with X1 = a and X2 = b. -/
def withXX (a b : Int) : State := (withX 1 a).writeX 2 b

theorem witness_LegalWordIsTheEncodingOfItsCommand : decode 0x00060307 = .ok (.flipx 3 0 .w64) := by decide

theorem witness_EveryWordSelectsOneRowOrIsIllegal :
    opcodeTable.all (fun r => !r.accepts 0x000A0801) = true ∧ (pend [.cmd 0x000A0801]).pending = [.cmd 0x000A0801] ∧
    (opcodeTable.filter (·.accepts 0x00080801)).length = 1 := by decide

theorem witness_IllegalWordsRaiseIllegalCommand :
    IllegalWord 0x00000000 ∧ IllegalWord 0x00000009 ∧ IllegalWord 0x00100001 ∧ IllegalWord 0x000A0801 ∧
    IllegalWord 0x00060803 ∧ IllegalWord 0x00004004 ∧ ¬IllegalWord 0x00000008 ∧ ¬IllegalWord 0x00080801 := by
  simp [IllegalWord]

theorem witness_StepRunsTheDecodedCommand :
    (pend [.cmd 0x00000801, .rdst]).pending = [.cmd 0x00000801, .rdst] ∧ decode 0x00000801 = .ok (.henc 0 1 .w8) := by
  decide

theorem witness_HostActionsFollowTheirTable :
    (pend [.wrx 7 5]).pending = .wrx (7 : RegIdx).val 5 :: [] ∧ (pend [.rdx 7]).pending = .rdx (7 : RegIdx).val :: [] ∧
    (List.replicate 56 (0x46 : Byte)).length ≤ 56 ∧
    (pend [.wrs 7 (List.replicate 56 0x46)]).pending = .wrs (7 : RegIdx).val (List.replicate 56 0x46) :: [] ∧
    (pend [.rds 7]).pending = .rds (7 : RegIdx).val :: [] ∧ (pend [.rdst]).pending = .rdst :: [] ∧
    (pend [.clrst]).pending = .clrst :: [] ∧ (pend [.reset]).pending = .reset :: [] ∧
    (pend [.cmd 9]).pending = .cmd 9 :: [] ∧ decode 9 = .error .opcodeIllegal ∧
    decode 0x00000801 = .ok (.henc 0 1 .w8) := by decide

theorem witness_ActionsOutsideTheTableAreRefused :
    (∃ i u, 8 ≤ i ∧ HostAction.wrx 8 0 = .wrx i u) ∧ (∃ i, 8 ≤ i ∧ HostAction.rdx 8 = .rdx i) ∧
    (∃ i, 8 ≤ i ∧ HostAction.rds 8 = .rds i) ∧
    (∃ i t, 56 < t.length ∧ HostAction.wrs 0 (List.replicate 57 0) = .wrs i t) :=
  ⟨⟨8, 0, by decide, rfl⟩, ⟨8, by decide, rfl⟩, ⟨8, by decide, rfl⟩, ⟨0, List.replicate 57 0, by decide, rfl⟩⟩

theorem witness_HostReadsChangeNothingAndWritesAreIdempotent :
    (after (perform (.rdx 7) State.reset)).isSome = true ∧ (after (perform .rdst State.reset)).isSome = true ∧
    (after (perform (.wrx 7 5) State.reset)).isSome = true ∧
    (after (perform (.wrs 7 (List.replicate 56 0x46)) State.reset)).isSome = true ∧
    (after (perform .clrst State.reset)).isSome = true ∧ (after (perform .reset State.reset)).isSome = true := by decide

theorem witness_ActionsTakeEffectInIssueOrder :
    (after (Host.Core.run core 2 { State.reset with pending := [.wrx 1 255, .cmd 0x00000801] })).isSome = true := by decide

theorem witness_EveryStepKeepsTheInvariant : State.reset.Inv ∧ step State.reset = .next State.reset :=
  ⟨⟨by decide, by decide, by decide, by decide, by decide, by decide⟩, rfl⟩

/-- The invariant also holds with every STATUS field set that a run can set. -/
theorem witness_invariant_beyond_reset : ({ State.reset with status := 0x301 } : State).Inv :=
  ⟨by decide, by decide, by decide, by decide, by decide, by decide⟩

theorem witness_StickyBitsFallOnlyByClearOrReset :
    let s := { pend [.wrx 0 1] with status := 0x300 }
    (after (step s)).isSome = true ∧ s.pending.head? ≠ some .clrst ∧ s.pending.head? ≠ some .reset ∧
    statusSerr s.status = true ∧ statusSinv s.status = true := by decide

theorem witness_HencWritesHexOrRaisesRangeError :
    (withX 1 0).readX 1 = 0 ∧ (withX 1 255).readX 1 = 2 ^ Width.w8.bits - 1 ∧ (withX 1 (-1)).readX 1 < 0 ∧
    (2 : Int) ^ Width.w224.bits ≤ (withX 1 (2 ^ 224)).readX 1 := by decide

theorem witness_HdecWritesValueOrRaisesFormatError :
    let full := withS 1 (List.replicate 56 0x66)
    (full.readS 1).length ≤ 56 ∧ full.readS 1 ≠ [] ∧ (∀ b ∈ full.readS 1, IsHexByte b) ∧
    (withS 1 []).readS 1 = [] ∧ (∃ b ∈ (withS 1 [0x46, 0x47]).readS 1, ¬IsHexByte b) := by decide

theorem witness_HencThenHdecGivesTheValueBack :
    0 ≤ (withX 1 (2 ^ 224 - 1)).readX 1 ∧ (withX 1 (2 ^ 224 - 1)).readX 1 < 2 ^ Width.w224.bits := by decide

theorem witness_HdecThenHencGivesCanonicalText :
    let s := withS 1 (txt "00fF".toList)
    (s.readS 1).length ≤ 56 ∧ s.readS 1 ≠ [] ∧ (∀ b ∈ s.readS 1, IsHexByte b) ∧ hexSum (s.readS 1) < 2 ^ Width.w8.bits := by
  decide

theorem witness_NormFollowsItsLoopsAndDigits :
    0 < 10 ^ 16 ∧ 10 ^ 16 - 1 < 10 ^ 16 ∧ 10 ^ 15 - 1 < 10 ^ 15 ∧ 10 ^ 15 ≤ 10 ^ 16 - 1 := by decide

theorem witness_NormalizationNeedsAtMost61Divisions : 2 ^ 255 ≤ 2 ^ 255 ∧ 0 < 2 ^ 255 := by decide

/-- The clauses of XPACK at the ends of the exponent range: (80, 10^15) and (-96, 10^15) pack, (81, 10^15) and
(-97, 10^15) do not. -/
theorem witness_XpackPacksOrReturnsTheSentinel :
    (withXX 80 (10 ^ 15)).readX 1 = 80 ∧ (withXX 80 (10 ^ 15)).readX 2 = 10 ^ 15 ∧ digitCount (10 ^ 15) = 16 ∧
    (normByDigits (10 ^ 15) 80).2 = 80 ∧ (normByDigits (10 ^ 15) (-96)).2 = -96 ∧
    80 < (normByDigits (10 ^ 15) 81).2 ∧ (normByDigits (10 ^ 15) (-97)).2 < -96 ∧ (withXX 80 0).readX 2 = 0 := by
  have d : digitCount (10 ^ 15) = 16 := by norm_num [digitCount]
  refine ⟨by decide, by decide, d, ?_, ?_, ?_, ?_, by decide⟩ <;> simp only [normByDigits, d] <;> decide

/-- V-X5 and V-X7: 12345 * 10^5 = 123450000 * 10^1. -/
theorem witness_XpackOfEqualValuesIsTheSame :
    let s := (((withXX 5 12345).writeX 3 1).writeX 4 123450000)
    (s.readX 2 : ℚ) * (10 : ℚ) ^ (s.readX 1) = (s.readX 4 : ℚ) * (10 : ℚ) ^ (s.readX 3) := by
  intro s
  have h1 : s.readX 1 = 5 := by decide
  have h2 : s.readX 2 = 12345 := by decide
  have h3 : s.readX 3 = 1 := by decide
  have h4 : s.readX 4 = 123450000 := by decide
  rw [h1, h2, h3, h4]
  norm_num

theorem witness_XpackOfNegatedMantissaClearsTheSign :
    let s := (withXX 0 1).writeX 3 (-1)
    0 < s.readX 2 ∧ s.readX 3 = -s.readX 2 ∧
    (after (exec (.xpack 0 1 2) s)).map (fun t => statusInv t.status) = some false := by decide

/-- For XEXP, XMAN and XNEG: every clause at both ends of its range. -/
theorem witness_XexpXmanXneg_clauses :
    (withX 4 0).readX 4 = 0 ∧ 0 < (withX 4 1).readX 4 ∧ (withX 4 (2 ^ 62 - 1)).readX 4 < 2 ^ 62 ∧
    2 ^ 62 ≤ (withX 4 (2 ^ 62)).readX 4 ∧ (withX 4 (2 ^ 63 - 1)).readX 4 < 2 ^ 63 ∧
    (withX 4 (-1)).readX 4 < 0 ∧ 2 ^ 63 ≤ (withX 4 (2 ^ 63)).readX 4 := by decide

theorem witness_FieldsOfAPackedWordAreTheNormalizedPair :
    (withXX 3 (-5)).readX 2 ≠ 0 ∧
    (after (exec (.xpack 0 1 2) (withXX 3 (-5)))).map (fun t => statusInv t.status) = some false := by decide

theorem witness_CanonicalWordIsRebuiltFromItsFields :
    CanonicalWord (0x1551C37937E08000 : Nat) ∧
    (withXX (-12) (-5 * 10 ^ 15)).readX 1 = xflExp 0x1551C37937E08000 ∧
    (withXX (-12) (-5 * 10 ^ 15)).readX 2 =
      (if xflNeg 0x1551C37937E08000 = 1 then -1 else 1) * (xflMan 0x1551C37937E08000 : Int) :=
  ⟨⟨false, -12, 5 * 10 ^ 15, by decide, by decide, by decide, by decide, by decide⟩, by decide, by decide⟩

theorem witness_SentinelIsRejectedByHencFlipxAndDecoders : (withX 1 (-1)).readX 1 = -1 := by decide

theorem witness_FlipxReversesBytesOrRaisesRangeError :
    0 ≤ (withX 1 (2 ^ 64 - 1)).readX 1 ∧ (withX 1 (2 ^ 64 - 1)).readX 1 < 2 ^ Width.w64.bits ∧ 7 < Width.w64.bits / 8 ∧
    (withX 1 (-1)).readX 1 < 0 ∧ 2 ^ Width.w64.bits ≤ (withX 1 (2 ^ 64)).readX 1 := by decide

/-- Both halves: a value of the width, and a hex string of even length. -/
theorem witness_FlippingTwiceInPlaceRestoresTheRegister :
    let s := (withX 1 (2 ^ 224 - 1)).writeS 1 (txt "aBcD".toList)
    0 ≤ s.readX 1 ∧ s.readX 1 < 2 ^ Width.w224.bits ∧ (s.readS 1).length % 2 = 0 ∧ (∀ b ∈ s.readS 1, IsHexByte b) := by
  decide

theorem witness_FlipThenEncodeIsEncodeThenFlip :
    0 ≤ (withX 1 255).readX 1 ∧ (withX 1 255).readX 1 < 2 ^ Width.w8.bits := by decide

theorem witness_FlipFunctionsReverseAndInvert :
    2 ^ 224 - 1 < 2 ^ Width.w224.bits ∧ 27 < Width.w224.bytes ∧ (txt "aBcD".toList).length % 2 = 0 := by decide

theorem witness_FlipsReversesGroupsOrRaisesFormatError :
    let s := (withS 0 (txt "aBcD".toList)).writeS 1 (txt "ZZ".toList)
    (s.readS 0).length % 2 = 0 ∧ (∀ b ∈ s.readS 0, IsHexByte b) ∧ (s.readS 2).length % 2 = 0 ∧
    (∀ b ∈ s.readS 2, IsHexByte b) ∧ (∃ b ∈ s.readS 1, ¬IsHexByte b) ∧
    ((withS 0 (txt "ABC".toList)).readS 0).length % 2 = 1 := by decide

/-- Also for `XfromwireAfterXtowireGivesThePackedWord`. -/
theorem witness_XtowireWritesTheWireOrderText :
    (after (exec (.xpack 3 1 2) (withXX (-2) 100))).map (fun t => statusInv t.status) = some false := by decide

theorem witness_XtowireOfAnOverflowLeavesTheStringUnchanged :
    (after (exec (.xpack 3 1 2) (withXX 200 1))).map (fun t => statusInv t.status) = some true := by decide

theorem witness_XfromwireOfALongValueRaisesRangeError :
    let s := withS 1 (txt "10000000000000000".toList)
    (s.readS 1).length ≤ 56 ∧ s.readS 1 ≠ [] ∧ (∀ b ∈ s.readS 1, IsHexByte b) ∧ 2 ^ 64 ≤ hexSum (s.readS 1) := by decide

theorem witness_CheckedStepFaultsExactlyAtUnwrittenReads :
    operandsOf (.xpack 0 1 2) = [.x 1] ++ .x 2 :: [] ∧ (withX 1 0).isWritten (.x 1) = true ∧
    (withX 1 0).isWritten (.x 2) = false ∧ (withXX 0 0).isWritten (.x 2) = true ∧
    decode 0x00108803 = .error .reservedNotZero := by decide

/-- Its H_RDX and H_RDS clauses, on both sides of the mark, at the last register. -/
theorem witness_CheckedStep_host_reads :
    (pend [.rdx 7]).pending = .rdx (7 : RegIdx).val :: [] ∧ (pend [.rdx 7]).isWritten (.x 7) = false ∧
    (withX 7 1).isWritten (.x 7) = true ∧ (pend [.rds 7]).pending = .rds (7 : RegIdx).val :: [] ∧
    (pend [.rds 7]).isWritten (.s 7) = false ∧ (withS 7 []).isWritten (.s 7) = true := by decide

/-- Its clauses for every other action, the first register that does not exist among them, and for an empty queue. -/
theorem witness_CheckedStep_other_actions :
    [HostAction.wrx 7 0, .wrs 7 [], .rdst, .clrst, .reset, .rdx 8, .rds 8].all
      (fun a => (pend [a]).pending = a :: []) = true ∧ 8 ≤ 8 ∧ (pend []).pending = [] := by decide

/-- X3 unwritten, holding 7 in one state and 0 in the other. -/
theorem witness_CheckedRunsNeverSeeUnwrittenContents :
    AgreeOnWritten State.reset { State.reset with xregs := State.reset.xregs.set 3 7 } :=
  ⟨rfl, rfl, rfl, rfl, rfl, by decide, by decide⟩

theorem witness_SafeRunsAreRunsOfTheMachine :
    (after (checkedRun 1 { withX 1 255 with pending := [.cmd 0x00000801] })).isSome = true := by decide

end Sys2Proof.Tests
end

section
/-! SUPPORT. The result of a host action as a state: every command and every action of the table of 10_state.md R19
answers a next state, which `actionResult` names, so that later proofs speak of a total function. -/

namespace Sys2Proof.Machine

/-- The index of the register a command writes (30_encoding.md R39). -/
def destinationIndex : Instr → RegIdx
  | .henc rd _ _ | .hdec rd _ _ | .xpack rd _ _ | .xexp rd _ | .xman rd _ | .xneg rd _ | .flipx rd _ _ | .flips rd _ => rd

/-- How a command ends, from what its operands hold (60_exceptions.md R64). -/
def commandEnd (i : Instr) (s : State) : CmdEnd :=
  match i with
  | .henc _ ra w => hencEnd w (s.readX ra)
  | .hdec _ ra _ => hdecEnd (s.readS ra)
  | .xpack _ ra rb => makeXfl (s.readX ra) (s.readX rb)
  | .xexp _ ra => decodeEnd xflExp (s.readX ra)
  | .xman _ ra => decodeEnd (fun raw => xflMan raw) (s.readX ra)
  | .xneg _ ra => decodeEnd (fun raw => xflNeg raw) (s.readX ra)
  | .flipx _ ra w => flipxEnd w (s.readX ra)
  | .flips _ ra => flipsEnd (s.readS ra)

/-- Every command ends in a next state, through `endCommand`. -/
theorem exec_eq_endCommand (i : Instr) (s : State) :
    exec i s = .next (s.endCommand (destinationIndex i) (commandEnd i s)) := by
  cases i <;> rfl

/-- How a command ends depends on its operands only. -/
theorem commandEnd_congr {i : Instr} {s t : State} (hx : ∀ j, .x j ∈ operandsOf i → s.readX j = t.readX j)
    (hs : ∀ j, .s j ∈ operandsOf i → s.readS j = t.readS j) : commandEnd i s = commandEnd i t := by
  cases i <;> simp only [operandsOf, List.mem_cons, List.not_mem_nil, or_false, Reg.x.injEq, Reg.s.injEq] at hx hs <;>
    simp only [commandEnd, hx, hs, true_or, or_true]

/-- The state `H_CMD(w)` leads to. -/
def commandResult (w : Word32) (s : State) : State :=
  match decode w with
  | .ok i => s.endCommand (destinationIndex i) (commandEnd i s)
  | .error _ => s.raiseError .illegalCommand

theorem commandResult_of_legal {w : Word32} {i : Instr} (h : decode w = .ok i) (s : State) :
    commandResult w s = s.endCommand (destinationIndex i) (commandEnd i s) := by
  simp only [commandResult, h]

theorem commandResult_of_illegal {w : Word32} {e : DecodeError} (h : decode w = .error e) (s : State) :
    commandResult w s = s.raiseError .illegalCommand := by
  simp only [commandResult, h]

theorem runCommand_eq_commandResult (w : Word32) (s : State) : runCommand w s = .next (commandResult w s) := by
  obtain ⟨i, hd, h⟩ | ⟨e, hd, h⟩ := runCommand_cases w s
  · rw [h, exec_eq_endCommand, commandResult_of_legal hd]
  · rw [h, commandResult_of_illegal hd]

/-- The state a host action inside the table leads to (R19). -/
def actionResult (a : HostAction) (s : State) : State :=
  match a with
  | .wrx i u => s.writeXWord (regOfNumber i) u
  | .rdx i => s.reply (.xword s.xregs[regOfNumber i])
  | .wrs i t => s.writeS (regOfNumber i) t
  | .rds i => s.reply (.str s.sregs[regOfNumber i])
  | .rdst => s.reply (.status s.status)
  | .clrst => { s with status := 0 }
  | .cmd w => commandResult w s
  | .reset => resetBlock s

theorem actionEffect_eq_actionResult (a : HostAction) (s : State) : actionEffect a s = .next (actionResult a s) := by
  cases a with
  | cmd w => exact runCommand_eq_commandResult w s
  | _ => rfl

theorem perform_of_inTable {a : HostAction} (h : a.inTable = true) (s : State) :
    perform a s = .next (actionResult a s) := by
  rw [perform, if_pos h, actionEffect_eq_actionResult]

theorem perform_of_not_inTable {a : HostAction} (h : a.inTable = false) (s : State) :
    perform a s = .refused (.hostActionOutOfTable a) := by
  simp [perform, h]

/-- A step with a pending action of the table, in terms of the state without that action. -/
theorem step_of_pending_inTable {s : State} {a : HostAction} {rest : List HostAction} (hp : s.pending = a :: rest)
    (ha : a.inTable = true) : step s = .next (actionResult a (popped s rest)) := by
  rw [step_of_pending hp]
  exact perform_of_inTable ha _

/-- A step with a pending action outside the table (R20). -/
theorem step_of_pending_not_inTable {s : State} {a : HostAction} {rest : List HostAction} (hp : s.pending = a :: rest)
    (ha : a.inTable = false) : step s = .refused (.hostActionOutOfTable a) := by
  rw [step_of_pending hp]
  exact perform_of_not_inTable ha _

/-- A step that answers a next state is idle, or leads to the result of the first pending action. -/
theorem step_next_actionResult {s t : State} (h : step s = .next t) :
    (s.pending = [] ∧ t = s) ∨
    (∃ a rest, s.pending = a :: rest ∧ a.inTable = true ∧ t = actionResult a (popped s rest)) := by
  obtain idle | ⟨a, rest, hp, ha, ht⟩ := step_next h
  · exact .inl idle
  · rw [actionEffect_eq_actionResult] at ht
    cases ht
    exact .inr ⟨a, rest, hp, ha, rfl⟩

/-! ### The registers an action names -/

@[simp] theorem regOfNumber_val (i : RegIdx) : regOfNumber i.val = i := by
  simp [regOfNumber]

@[simp] theorem regNumberOk_val (i : RegIdx) : regNumberOk i.val = true := by
  simp [regNumberOk]

/-- A host write of a word is the write of the integer it stores (R15). -/
theorem State.writeXWord_eq_writeX (s : State) (i : RegIdx) (u : XWord) : s.writeXWord i u = s.writeX i u.toInt := by
  rw [State.writeX, BitVec.ofInt_toInt]

/-- The word Xi stores is the two's complement of its value (R15). -/
theorem State.xregs_eq_ofInt_readX (s : State) (i : RegIdx) : s.xregs[i] = BitVec.ofInt 256 (s.readX i) :=
  (BitVec.ofInt_toInt).symm

/-- H_RDX returns the two's complement of the integer (R19). -/
theorem actionResult_rdx (i : Nat) (s : State) :
    actionResult (.rdx i) s = s.reply (.xword (BitVec.ofInt 256 (s.readX (regOfNumber i)))) := by
  rw [actionResult, State.xregs_eq_ofInt_readX]

/-- H_RDS returns the string (R19). -/
theorem actionResult_rds (i : Nat) (s : State) :
    actionResult (.rds i) s = s.reply (.str (s.readS (regOfNumber i))) :=
  rfl

@[simp] theorem State.readS_resetBlock (s : State) (i : RegIdx) : (resetBlock s).readS i = [] := by
  simp [State.readS, resetStr]

@[simp] theorem State.isWritten_resetBlock (s : State) (r : Reg) : (resetBlock s).isWritten r = false := by
  cases r <;> simp [State.isWritten]

/-! ### The queue of pending actions -/

@[simp] theorem popped_status (s : State) (p : List HostAction) : (popped s p).status = s.status := rfl
@[simp] theorem popped_pending (s : State) (p : List HostAction) : (popped s p).pending = p := rfl
@[simp] theorem popped_replies (s : State) (p : List HostAction) : (popped s p).replies = s.replies := rfl
@[simp] theorem readX_popped (s : State) (p : List HostAction) (i : RegIdx) : (popped s p).readX i = s.readX i := rfl
@[simp] theorem readS_popped (s : State) (p : List HostAction) (i : RegIdx) : (popped s p).readS i = s.readS i := rfl
@[simp] theorem isWritten_popped (s : State) (p : List HostAction) (r : Reg) :
    (popped s p).isWritten r = s.isWritten r := by
  cases r <;> rfl

theorem endCommand_popped (s : State) (p : List HostAction) (rd : RegIdx) (e : CmdEnd) :
    (popped s p).endCommand rd e = popped (s.endCommand rd e) p := by
  cases e <;> rfl

theorem commandEnd_popped (i : Instr) (s : State) (p : List HostAction) :
    commandEnd i (popped s p) = commandEnd i s :=
  commandEnd_congr (fun j _ => readX_popped s p j) (fun j _ => readS_popped s p j)

/-- What is queued behind an action does not change what the action does. -/
theorem actionResult_popped (a : HostAction) (s : State) (p : List HostAction) :
    actionResult a (popped s p) = popped (actionResult a s) p := by
  cases a with
  | cmd w =>
    simp only [actionResult, commandResult]
    cases decode w with
    | ok i => simp only [commandEnd_popped, endCommand_popped]
    | error e => rfl
  | _ => rfl

end Sys2Proof.Machine
end

section
/-! SUPPORT. The invariant `State.Inv` over every step (10_state.md R16, R17; 60_exceptions.md R66 to R69). -/

namespace Sys2Proof.Machine

/-- The invariant speaks of STATUS and of the lengths of the strings only. -/
theorem State.Inv.of_status_eq {s t : State} (h : s.Inv) (hst : t.status = s.status)
    (hstr : ∀ i, (t.readS i).length ≤ Config.scap) : t.Inv where
  strings := hstr
  reserved := hst ▸ h.reserved
  errCode := hst ▸ h.errCode
  oneOutcome := hst ▸ h.oneOutcome
  stickyError := hst ▸ h.stickyError
  stickySentinel := hst ▸ h.stickySentinel

/-- Clearing STATUS meets the invariant's clauses about STATUS. -/
theorem State.Inv.of_status_zero {t : State} (hst : t.status = 0)
    (hstr : ∀ i, (t.readS i).length ≤ Config.scap) : t.Inv where
  strings := hstr
  reserved := by rw [hst]; decide
  errCode := by rw [hst]; decide
  oneOutcome := by rw [hst]; decide
  stickyError := by rw [hst]; decide
  stickySentinel := by rw [hst]; decide

theorem inv_resetBlock (s : State) : (resetBlock s).Inv :=
  .of_status_zero rfl fun i => by simp

theorem State.Inv.popped {s : State} (h : s.Inv) (p : List HostAction) : (popped s p).Inv :=
  h.of_status_eq rfl h.strings

theorem State.Inv.writeX {s : State} (h : s.Inv) (i : RegIdx) (v : Int) : (s.writeX i v).Inv :=
  h.of_status_eq rfl h.strings

theorem State.Inv.writeS {s : State} (h : s.Inv) (i : RegIdx) {txt : Str} (fits : txt.length ≤ Config.scap) :
    (s.writeS i txt).Inv := by
  refine h.of_status_eq rfl fun j => ?_
  rw [State.readS_writeS]
  split
  · exact fits
  · exact h.strings j

theorem State.Inv.reply {s : State} (h : s.Inv) (r : HostReply) : (s.reply r).Inv :=
  h.of_status_eq rfl h.strings

theorem State.Inv.done {s : State} (h : s.Inv) : s.done.Inv where
  strings := h.strings
  reserved := by simp [h.reserved]
  errCode := by simp
  oneOutcome := .inl (by simp)
  stickyError := by simp
  stickySentinel := by simp

/-- The codes of R65 are 1 to 4. -/
theorem CmdError.code_le_four (e : CmdError) : e.code.toNat ≤ 4 := by
  cases e <;> decide

theorem State.Inv.raiseError {s : State} (h : s.Inv) (e : CmdError) : (s.raiseError e).Inv where
  strings := h.strings
  reserved := by simp [h.reserved]
  errCode := by simp [e.code_le_four]
  oneOutcome := .inr (by simp)
  stickyError := by simp
  stickySentinel := by simp

theorem State.Inv.returnSentinel {s : State} (h : s.Inv) (rd : RegIdx) : (s.returnSentinel rd).Inv where
  strings := h.strings
  reserved := by simp [h.reserved]
  errCode := by simp
  oneOutcome := .inl (by simp)
  stickyError := by simp
  stickySentinel := by simp

/-- A string result fits a register (R16). -/
def CmdEnd.Fits : CmdEnd → Prop
  | .doneS txt => txt.length ≤ Config.scap
  | .doneX _ | .sentinel | .error _ => True

theorem State.Inv.endCommand {s : State} (h : s.Inv) (rd : RegIdx) {e : CmdEnd} (he : e.Fits) :
    (s.endCommand rd e).Inv := by
  cases e with
  | doneX v => exact (h.writeX rd v).done
  | doneS txt => exact (h.writeS rd he).done
  | sentinel => exact h.returnSentinel rd
  | error e => exact h.raiseError e

theorem hexString_length (n v : Nat) : (hexString n v).length = n := by
  simp [hexString]

/-- Regrouping a string keeps its length (R61). -/
theorem flipGroups_length (txt : Str) : (flipGroups txt).length = txt.length := by
  induction txt using flipGroups.induct with
  | case1 a b rest ih => simp [flipGroups, ih]
  | case2 t h => rw [flipGroups.eq_2 t h]

/-- No width has more hex digits than a string register has bytes (R7, R16). -/
theorem digits_le_scap (w : Width) : w.digits ≤ Config.scap := by
  cases w <;> decide

theorem hencEnd_fits (w : Width) (v : Int) : (hencEnd w v).Fits := by
  obtain ⟨-, h⟩ | ⟨-, h⟩ := hencEnd_cases w v <;> rw [h]
  · simpa only [CmdEnd.Fits, hexString_length] using digits_le_scap w
  · trivial

theorem hdecEnd_fits (txt : Str) : (hdecEnd txt).Fits := by
  obtain ⟨-, -, h⟩ | ⟨-, h⟩ := hdecEnd_cases txt <;> rw [h] <;> trivial

theorem makeXfl_fits (e m : Int) : (makeXfl e m).Fits := by
  obtain ⟨raw, h⟩ | h := makeXfl_cases e m <;> rw [h] <;> trivial

theorem decodeEnd_fits (field : Nat → Int) (raw : Int) : (decodeEnd field raw).Fits := by
  obtain ⟨-, h⟩ | ⟨-, h⟩ := decodeEnd_cases field raw <;> rw [h] <;> trivial

theorem flipxEnd_fits (w : Width) (v : Int) : (flipxEnd w v).Fits := by
  obtain ⟨-, h⟩ | ⟨-, h⟩ := flipxEnd_cases w v <;> rw [h] <;> trivial

theorem flipsEnd_fits {txt : Str} (fits : txt.length ≤ Config.scap) : (flipsEnd txt).Fits := by
  obtain ⟨-, -, h⟩ | ⟨-, h⟩ := flipsEnd_cases txt <;> rw [h]
  · simpa only [CmdEnd.Fits, flipGroups_length] using fits
  · trivial

/-- The string a command writes fits its register, if every operand string did. -/
theorem commandEnd_fits {s : State} (h : s.Inv) (i : Instr) : (commandEnd i s).Fits := by
  cases i with
  | henc rd ra w => exact hencEnd_fits w _
  | hdec rd ra w => exact hdecEnd_fits _
  | xpack rd ra rb => exact makeXfl_fits _ _
  | xexp rd ra => exact decodeEnd_fits _ _
  | xman rd ra => exact decodeEnd_fits (fun raw => xflMan raw) _
  | xneg rd ra => exact decodeEnd_fits (fun raw => xflNeg raw) _
  | flipx rd ra w => exact flipxEnd_fits w _
  | flips rd ra => exact flipsEnd_fits (h.strings ra)

theorem State.Inv.commandResult {s : State} (h : s.Inv) (w : Word32) : (commandResult w s).Inv := by
  cases hd : decode w with
  | ok i => exact commandResult_of_legal hd s ▸ h.endCommand _ (commandEnd_fits h i)
  | error e => exact commandResult_of_illegal hd s ▸ h.raiseError _

/-- Every host action of the table keeps the invariant. -/
theorem State.Inv.actionResult {s : State} (h : s.Inv) {a : HostAction} (ha : a.inTable = true) :
    (actionResult a s).Inv := by
  cases a with
  | wrx i u => exact h.of_status_eq rfl h.strings
  | wrs i txt =>
    obtain ⟨-, fits⟩ : regNumberOk i = true ∧ Str.fits txt = true := by simpa [HostAction.inTable] using ha
    exact h.writeS _ (of_decide_eq_true fits)
  | rdx i => exact h.reply _
  | rds i => exact h.reply _
  | rdst => exact h.reply _
  | clrst => exact .of_status_zero rfl h.strings
  | cmd w => exact h.commandResult w
  | reset => exact inv_resetBlock s

/-- Settles O15: a step performs one action of the table, and each keeps the invariant. -/
theorem everyStepKeepsTheInvariant : Obligations.EveryStepKeepsTheInvariant := by
  intro s t h hstep
  obtain ⟨-, rfl⟩ | ⟨a, rest, -, ha, rfl⟩ := step_next_actionResult hstep
  · exact h
  · exact (h.popped rest).actionResult ha

/-- Settles O14: the state after reset is a reset block. -/
theorem invariantHoldsAfterReset : Obligations.InvariantHoldsAfterReset :=
  inv_resetBlock State.reset

/-! ### Sticky bits -/

/-- Each sticky bit that is 1 in `s` is 1 in `t` (60_exceptions.md R72). -/
structure StickyKept (s t : State) : Prop where
  serr : statusSerr s.status = true → statusSerr t.status = true
  sinv : statusSinv s.status = true → statusSinv t.status = true

theorem StickyKept.of_status_eq {s t : State} (h : t.status = s.status) : StickyKept s t := by
  constructor <;> rw [h] <;> exact id

theorem stickyKept_endCommand (s : State) (rd : RegIdx) (e : CmdEnd) : StickyKept s (s.endCommand rd e) := by
  cases e <;> constructor <;> simp

theorem stickyKept_commandResult (w : Word32) (s : State) : StickyKept s (commandResult w s) := by
  cases hd : decode w with
  | ok i => exact commandResult_of_legal hd s ▸ stickyKept_endCommand s _ _
  | error e => exact commandResult_of_illegal hd s ▸ stickyKept_endCommand s 0 (.error .illegalCommand)

/-- Only H_CLRST and H_RESET let a sticky bit fall. -/
theorem stickyKept_actionResult {a : HostAction} (hc : a ≠ .clrst) (hr : a ≠ .reset) (s : State) :
    StickyKept s (actionResult a s) := by
  cases a with
  | clrst => exact absurd rfl hc
  | reset => exact absurd rfl hr
  | cmd w => exact stickyKept_commandResult w s
  | _ => exact .of_status_eq rfl

/-- Settles O16, by the action the step performs. -/
theorem stickyBitsFallOnlyByClearOrReset : Obligations.StickyBitsFallOnlyByClearOrReset := by
  intro s t hstep hc hr
  obtain ⟨-, rfl⟩ | ⟨a, rest, hp, -, rfl⟩ := step_next_actionResult hstep
  · exact ⟨id, id⟩
  · simp only [hp, List.head?_cons, ne_eq, Option.some.injEq] at hc hr
    obtain ⟨serr, sinv⟩ := stickyKept_actionResult hc hr (popped s rest)
    exact ⟨serr, sinv⟩

end Sys2Proof.Machine
end

section
/-! SUPPORT. The checked step (10_state.md R22, 60_exceptions.md R69): where it faults, and that its runs neither leave the
machine's nor depend on what unwritten registers hold (70_reset_and_hazards.md R80). -/

namespace Sys2Proof.Machine

/-! ### Where the checked step faults -/

theorem checkedStep_of_unwritten {s : State} {a : HostAction} {rest : List HostAction} {r : Reg}
    (hp : s.pending = a :: rest) (h : unwrittenRead a s = some r) : checkedStep s = .fault (.unwrittenRead r) := by
  simp only [checkedStep, hp, h]

theorem checkedStep_of_written {s : State} {a : HostAction} {rest : List HostAction}
    (hp : s.pending = a :: rest) (h : unwrittenRead a s = none) : checkedStep s = step s := by
  simp only [checkedStep, hp, h]

theorem checkedStep_of_idle {s : State} (hp : s.pending = []) : checkedStep s = step s := by
  simp only [checkedStep, hp]

theorem unwrittenRead_cmd_of_legal {w : Word32} {i : Instr} (h : decode w = .ok i) (s : State) :
    unwrittenRead (.cmd w) s = unwrittenOperand i s := by
  simp only [unwrittenRead, h]

theorem unwrittenRead_cmd_of_illegal {w : Word32} {e : DecodeError} (h : decode w = .error e) (s : State) :
    unwrittenRead (.cmd w) s = none := by
  simp only [unwrittenRead, h]

/-- No operand is unwritten exactly when all are written. -/
theorem unwrittenOperand_eq_none_iff {i : Instr} {s : State} :
    unwrittenOperand i s = none ↔ ∀ r ∈ operandsOf i, s.isWritten r = true := by
  simp [unwrittenOperand]

/-- The unwritten operand that is named is the first one in the order the rule reads them. -/
theorem unwrittenOperand_eq_some {i : Instr} {s : State} {pre post : List Reg} {r : Reg}
    (hops : operandsOf i = pre ++ r :: post) (hpre : ∀ q ∈ pre, s.isWritten q = true) (hr : s.isWritten r = false) :
    unwrittenOperand i s = some r := by
  have hnone : pre.find? (fun q => !s.isWritten q) = none := by simpa using hpre
  simp [unwrittenOperand, hops, List.find?_append, hnone, hr]

theorem unwrittenRead_rdx (i : RegIdx) (s : State) :
    unwrittenRead (.rdx i.val) s = if s.isWritten (.x i) then none else some (.x i) := by
  cases h : s.isWritten (.x i) <;> simp [unwrittenRead, h]

theorem unwrittenRead_rds (i : RegIdx) (s : State) :
    unwrittenRead (.rds i.val) s = if s.isWritten (.s i) then none else some (.s i) := by
  cases h : s.isWritten (.s i) <;> simp [unwrittenRead, h]

/-- A read of a register that does not exist is no unwritten read. -/
theorem unwrittenRead_of_register_above {i : Nat} (h : 8 ≤ i) (s : State) :
    unwrittenRead (.rdx i) s = none ∧ unwrittenRead (.rds i) s = none := by
  have hno : regNumberOk i = false := by simpa [regNumberOk] using h
  constructor <;> simp [unwrittenRead, hno]

/-- Settles O43, clause by clause. -/
theorem checkedStepFaultsExactlyAtUnwrittenReads : Obligations.CheckedStepFaultsExactlyAtUnwrittenReads := by
  intro s rest
  refine ⟨fun w i hp hd => ⟨fun pre r post hops hpre hr => ?_, fun hall => ?_⟩, fun w e hp hd => ?_, fun i hp => ?_,
    fun i hp => ?_, fun a hp ha => ?_, checkedStep_of_idle⟩
  · refine checkedStep_of_unwritten hp ?_
    rw [unwrittenRead_cmd_of_legal hd, unwrittenOperand_eq_some hops hpre hr]
  · refine checkedStep_of_written hp ?_
    rw [unwrittenRead_cmd_of_legal hd, unwrittenOperand_eq_none_iff.2 hall]
  · exact checkedStep_of_written hp (unwrittenRead_cmd_of_illegal hd s)
  · split
    · exact checkedStep_of_written hp (by rw [unwrittenRead_rdx, if_pos ‹_›])
    · exact checkedStep_of_unwritten hp (by rw [unwrittenRead_rdx, if_neg ‹_›])
  · split
    · exact checkedStep_of_written hp (by rw [unwrittenRead_rds, if_pos ‹_›])
    · exact checkedStep_of_unwritten hp (by rw [unwrittenRead_rds, if_neg ‹_›])
  · refine checkedStep_of_written hp ?_
    obtain ⟨i, u, rfl⟩ | ⟨i, txt, rfl⟩ | rfl | rfl | rfl | ⟨i, hi, rfl | rfl⟩ := ha
    · rfl
    · rfl
    · rfl
    · rfl
    · rfl
    · exact (unwrittenRead_of_register_above hi s).1
    · exact (unwrittenRead_of_register_above hi s).2

/-! ### Checked runs are runs -/

theorem run_succ_of_next {s t : State} (n : Nat) (h : step s = .next t) :
    Host.Core.run core (n + 1) s = Host.Core.run core n t := by
  have hcore : core.step s = .next t := h
  simp only [Host.Core.run, hcore]

theorem run_succ_of_refused {s : State} {r : Refusal} (n : Nat) (h : step s = .refused r) :
    Host.Core.run core (n + 1) s = .refused r := by
  have hcore : core.step s = .refused r := h
  simp only [Host.Core.run, hcore]

/-- A checked step either is the step or faults at an unwritten register that the first pending action reads. -/
theorem checkedStep_eq_step_or_fault (s : State) :
    checkedStep s = step s ∨ ∃ r, checkedStep s = .fault (.unwrittenRead r) := by
  cases hp : s.pending with
  | nil => exact .inl (checkedStep_of_idle hp)
  | cons a rest =>
    cases hu : unwrittenRead a s with
    | none => exact .inl (checkedStep_of_written hp hu)
    | some r => exact .inr ⟨r, checkedStep_of_unwritten hp hu⟩

/-- A checked step that answers a next state is the step. -/
theorem step_of_checkedStep_next {s t : State} (h : checkedStep s = .next t) : step s = .next t := by
  obtain heq | ⟨r, hf⟩ := checkedStep_eq_step_or_fault s
  · exact heq ▸ h
  · rw [hf] at h
    cases h

/-- A checked run of `n + 1` steps to a state begins with a checked step to a state. -/
theorem checkedRun_succ_next {n : Nat} {s u : State} (h : checkedRun (n + 1) s = .next u) :
    ∃ t, checkedStep s = .next t ∧ checkedRun n t = .next u := by
  unfold checkedRun at h
  split at h
  · exact ⟨_, ‹_›, h⟩
  · cases h
  · cases h

/-- Settles O45, by induction on the number of steps. -/
theorem safeRunsAreRunsOfTheMachine : Obligations.SafeRunsAreRunsOfTheMachine := by
  intro n
  induction n with
  | zero => exact fun s t h => h
  | succ n ih =>
    intro s u h
    obtain ⟨t, hstep, hrun⟩ := checkedRun_succ_next h
    rw [run_succ_of_next n (step_of_checkedStep_next hstep)]
    exact ih t u hrun

/-! ### Unwritten contents are never seen -/

theorem AgreeOnWritten.isWritten_eq {s t : State} (h : AgreeOnWritten s t) (r : Reg) : s.isWritten r = t.isWritten r := by
  cases r with
  | x i => simp only [State.isWritten, h.xWritten]
  | s i => simp only [State.isWritten, h.sWritten]

theorem AgreeOnWritten.popped {s t : State} (h : AgreeOnWritten s t) (p : List HostAction) :
    AgreeOnWritten (popped s p) (popped t p) :=
  { h with pending := rfl }

theorem AgreeOnWritten.setStatus {s t : State} (h : AgreeOnWritten s t) {v w : Word32} (hvw : v = w) :
    AgreeOnWritten { s with status := v } { t with status := w } :=
  { h with status := hvw }

theorem AgreeOnWritten.reply {s t : State} (h : AgreeOnWritten s t) {q r : HostReply} (hqr : q = r) :
    AgreeOnWritten (s.reply q) (t.reply r) :=
  { h with replies := by simp [h.replies, hqr] }

theorem AgreeOnWritten.writeX {s t : State} (h : AgreeOnWritten s t) (i : RegIdx) (v : Int) :
    AgreeOnWritten (s.writeX i v) (t.writeX i v) where
  status := h.status
  xWritten := by simp [h.xWritten]
  sWritten := h.sWritten
  pending := h.pending
  replies := h.replies
  xregs j hj := by
    rw [State.readX_writeX, State.readX_writeX]
    split
    · rfl
    · rename_i hne
      exact h.xregs j (by simpa [State.isWritten_writeX, Ne.symm hne] using hj)
  sregs := h.sregs

theorem AgreeOnWritten.writeS {s t : State} (h : AgreeOnWritten s t) (i : RegIdx) (txt : Str) :
    AgreeOnWritten (s.writeS i txt) (t.writeS i txt) where
  status := h.status
  xWritten := h.xWritten
  sWritten := by simp [h.sWritten]
  pending := h.pending
  replies := h.replies
  xregs := h.xregs
  sregs j hj := by
    rw [State.readS_writeS, State.readS_writeS]
    split
    · rfl
    · rename_i hne
      exact h.sregs j (by simpa [State.isWritten_writeS, Ne.symm hne] using hj)

/-- Two commands that end alike keep the agreement, whatever the destination held. -/
theorem AgreeOnWritten.endCommand {s t : State} (h : AgreeOnWritten s t) (rd : RegIdx) (e : CmdEnd) :
    AgreeOnWritten (s.endCommand rd e) (t.endCommand rd e) := by
  cases e with
  | doneX v => exact (h.writeX rd v).setStatus (congrArg statusDone h.status)
  | doneS txt => exact (h.writeS rd txt).setStatus (congrArg statusDone h.status)
  | sentinel => exact (h.writeX rd sentinelValue).setStatus (congrArg statusSentinel h.status)
  | error e => exact h.setStatus (congrArg (statusError e.code) h.status)

/-- A reset block holds nothing of what its registers held. -/
theorem AgreeOnWritten.resetBlock {s t : State} (h : AgreeOnWritten s t) :
    AgreeOnWritten (resetBlock s) (resetBlock t) where
  status := rfl
  xWritten := rfl
  sWritten := rfl
  pending := h.pending
  replies := h.replies
  xregs _ _ := rfl
  sregs _ _ := rfl

/-- The fault R22 asks for depends on the written marks only. -/
theorem AgreeOnWritten.unwrittenRead_eq {s t : State} (h : AgreeOnWritten s t) (a : HostAction) :
    unwrittenRead a s = unwrittenRead a t := by
  cases a <;> simp only [unwrittenRead, unwrittenOperand, h.isWritten_eq]

/-- A command whose operands are all written ends alike in both states. -/
theorem AgreeOnWritten.commandEnd_eq {s t : State} (h : AgreeOnWritten s t) {i : Instr}
    (hw : ∀ r ∈ operandsOf i, s.isWritten r = true) : commandEnd i s = commandEnd i t :=
  commandEnd_congr (fun j hj => h.xregs j (hw _ hj)) (fun j hj => h.sregs j (hw _ hj))

theorem AgreeOnWritten.commandResult {s t : State} (h : AgreeOnWritten s t) {w : Word32}
    (hread : unwrittenRead (.cmd w) s = none) : AgreeOnWritten (commandResult w s) (commandResult w t) := by
  cases hd : decode w with
  | ok i =>
    rw [unwrittenRead_cmd_of_legal hd, unwrittenOperand_eq_none_iff] at hread
    rw [commandResult_of_legal hd, commandResult_of_legal hd, h.commandEnd_eq hread]
    exact h.endCommand _ _
  | error e =>
    rw [commandResult_of_illegal hd, commandResult_of_illegal hd]
    exact h.endCommand 0 (.error .illegalCommand)

/-- An action of the table that reads no unwritten register keeps the agreement. -/
theorem AgreeOnWritten.actionResult {s t : State} (h : AgreeOnWritten s t) {a : HostAction} (ha : a.inTable = true)
    (hread : unwrittenRead a s = none) : AgreeOnWritten (actionResult a s) (actionResult a t) := by
  cases a with
  | wrx i u =>
    simp only [Machine.actionResult, State.writeXWord_eq_writeX]
    exact h.writeX _ _
  | rdx i =>
    have hw : s.isWritten (.x (regOfNumber i)) = true := by
      simpa [unwrittenRead, show regNumberOk i = true from ha] using hread
    rw [actionResult_rdx, actionResult_rdx, h.xregs _ hw]
    exact h.reply rfl
  | wrs i txt => exact h.writeS _ _
  | rds i =>
    have hw : s.isWritten (.s (regOfNumber i)) = true := by
      simpa [unwrittenRead, show regNumberOk i = true from ha] using hread
    rw [actionResult_rds, actionResult_rds, h.sregs _ hw]
    exact h.reply rfl
  | rdst => exact h.reply (congrArg HostReply.status h.status)
  | clrst => exact h.setStatus rfl
  | cmd w => exact h.commandResult hread
  | reset => exact h.resetBlock

/-- Two outcomes that differ at most in the contents of unwritten registers. -/
inductive EndAlike : Host.Outcome State Fault Refusal → Host.Outcome State Fault Refusal → Prop
  | next {s t : State} (h : AgreeOnWritten s t) : EndAlike (.next s) (.next t)
  | fault (f : Fault) : EndAlike (.fault f) (.fault f)
  | refused (r : Refusal) : EndAlike (.refused r) (.refused r)

/-- What an action would read unwritten is the same once it is off the queue. -/
theorem unwrittenRead_popped (a : HostAction) (s : State) (p : List HostAction) :
    unwrittenRead a (popped s p) = unwrittenRead a s := by
  cases a <;> simp only [unwrittenRead, unwrittenOperand, isWritten_popped]

/-- The step lemma of the two-run invariant. -/
theorem AgreeOnWritten.checkedStep {s t : State} (h : AgreeOnWritten s t) :
    EndAlike (checkedStep s) (checkedStep t) := by
  cases hp : s.pending with
  | nil =>
    have hq : t.pending = [] := h.pending ▸ hp
    rw [checkedStep_of_idle hp, checkedStep_of_idle hq, step_of_idle hp, step_of_idle hq]
    exact .next h
  | cons a rest =>
    have hq : t.pending = a :: rest := h.pending ▸ hp
    cases hs : unwrittenRead a s with
    | some r =>
      rw [checkedStep_of_unwritten hp hs, checkedStep_of_unwritten hq (h.unwrittenRead_eq a ▸ hs)]
      exact .fault _
    | none =>
      rw [checkedStep_of_written hp hs, checkedStep_of_written hq (h.unwrittenRead_eq a ▸ hs)]
      cases ha : a.inTable with
      | false =>
        rw [step_of_pending_not_inTable hp ha, step_of_pending_not_inTable hq ha]
        exact .refused _
      | true =>
        rw [step_of_pending_inTable hp ha, step_of_pending_inTable hq ha]
        exact .next ((h.popped rest).actionResult ha (unwrittenRead_popped a s rest ▸ hs))

/-- The two-run invariant over any number of checked steps. -/
theorem AgreeOnWritten.checkedRun {s t : State} (h : AgreeOnWritten s t) (n : Nat) :
    EndAlike (checkedRun n s) (checkedRun n t) := by
  induction n generalizing s t with
  | zero => exact .next h
  | succ n ih =>
    have hstep := h.checkedStep
    simp only [Machine.checkedRun]
    generalize Machine.checkedStep s = o, Machine.checkedStep t = o' at hstep
    cases hstep with
    | next h' => exact ih h'
    | fault f => exact .fault f
    | refused r => exact .refused r

/-- Settles O44, by the two-run invariant. -/
theorem checkedRunsNeverSeeUnwrittenContents : Obligations.CheckedRunsNeverSeeUnwrittenContents := by
  intro n s t h
  have alike := h.checkedRun n
  generalize checkedRun n s = o, checkedRun n t = o' at alike
  cases alike with
  | next h' => exact .inl ⟨_, _, rfl, rfl, h'⟩
  | fault f => exact .inr (.inl ⟨f, rfl, rfl⟩)
  | refused r => exact .inr (.inr ⟨r, rfl, rfl⟩)

end Sys2Proof.Machine
end

section
/-! SUPPORT. The host interface: each action's row of 10_state.md R19, the refusals of R20, and the order of R33. -/

namespace Sys2Proof.Machine

/-! ### The effect of each row -/

theorem writesX_writeX (s : State) (rd : RegIdx) {v : Int} (lo : -2 ^ 255 ≤ v) (hi : v < 2 ^ 255) :
    WritesX rd v s (s.writeX rd v) where
  value := State.readX_writeX_same s rd lo hi
  otherX j hj := by rw [State.readX_writeX, if_neg hj.symm]
  strings _ := rfl
  marks r := by simp [State.isWritten_writeX]
  pending := rfl
  replies := rfl

theorem writesX_writeXWord (s : State) (rd : RegIdx) (u : XWord) : WritesX rd u.toInt s (s.writeXWord rd u) := by
  rw [State.writeXWord_eq_writeX]
  exact writesX_writeX s rd (BitVec.le_toInt u) (BitVec.toInt_lt (x := u))

theorem writesS_writeS (s : State) (rd : RegIdx) (txt : Str) : WritesS rd txt s (s.writeS rd txt) where
  value := by rw [State.readS_writeS, if_pos rfl]
  otherS j hj := by rw [State.readS_writeS, if_neg hj.symm]
  integers _ := rfl
  marks r := by simp [State.isWritten_writeS]
  pending := rfl
  replies := rfl

@[simp] theorem State.isWritten_raiseError (s : State) (e : CmdError) (r : Reg) :
    (s.raiseError e).isWritten r = s.isWritten r := by
  cases r <;> rfl

theorem writesNothing_raiseError (s : State) (e : CmdError) : WritesNothing s (s.raiseError e) where
  integers _ := rfl
  strings _ := rfl
  marks r := State.isWritten_raiseError s e r
  pending := rfl
  replies := rfl

theorem statusError_raiseError (s : State) (e : CmdError) : StatusError e.code.toNat s (s.raiseError e) where
  err := by simp
  inv := by simp
  serr := by simp
  sinv := by simp
  reserved := by simp

theorem StatusError.of_popped {code : Nat} {s t : State} {p : List HostAction}
    (h : StatusError code (popped s p) t) : StatusError code s t :=
  ⟨h.err, h.inv, h.serr, h.sinv, h.reserved⟩

/-- H_CMD of a legal word is the command's rule. -/
theorem step_of_legal_command {s : State} {w : Word32} {rest : List HostAction} {i : Instr}
    (hp : s.pending = .cmd w :: rest) (hd : decode w = .ok i) : step s = exec i (popped s rest) := by
  rw [step_of_pending_inTable hp rfl, exec_eq_endCommand, actionResult, commandResult_of_legal hd]

/-- H_CMD of an illegal word raises IllegalCommand (30_encoding.md R41). -/
theorem step_of_illegal_command {s : State} {w : Word32} {rest : List HostAction} {e : DecodeError}
    (hp : s.pending = .cmd w :: rest) (hd : decode w = .error e) :
    step s = .next ((popped s rest).raiseError .illegalCommand) := by
  rw [step_of_pending_inTable hp rfl, actionResult, commandResult_of_illegal hd]

/-- Settles O7: H_CMD is inside the table. -/
theorem stepRunsTheDecodedCommand : Obligations.StepRunsTheDecodedCommand :=
  fun _ _ _ _ hp hd => step_of_legal_command hp hd

/-- Settles O8, row by row. -/
theorem hostActionsFollowTheirTable : Obligations.HostActionsFollowTheirTable := by
  intro s rest
  refine ⟨fun i u hp => ?_, fun i hp => ?_, fun i txt fits hp => ?_, fun i hp => ?_, fun hp => ?_, fun hp => ?_,
    fun w hp => ⟨fun i hd => step_of_legal_command hp hd, fun e hd => ?_⟩, fun hp => ?_⟩
  · -- H_WRX
    refine ⟨_, step_of_pending_inTable hp (regNumberOk_val i), ?_, rfl⟩
    simpa only [actionResult, regOfNumber_val] using writesX_writeXWord (popped s rest) i u
  · -- H_RDX
    rw [step_of_pending_inTable hp (regNumberOk_val i), actionResult_rdx, regOfNumber_val]
    rfl
  · -- H_WRS
    have ha : (HostAction.wrs i.val txt).inTable = true := by
      rw [HostAction.inTable, regNumberOk_val]
      exact decide_eq_true fits
    refine ⟨_, step_of_pending_inTable hp ha, ?_, rfl⟩
    simpa only [actionResult, regOfNumber_val] using writesS_writeS (popped s rest) i txt
  · -- H_RDS
    rw [step_of_pending_inTable hp (regNumberOk_val i), actionResult_rds, regOfNumber_val]
    rfl
  · -- H_RDST
    exact step_of_pending_inTable hp rfl
  · -- H_CLRST
    exact step_of_pending_inTable hp rfl
  · -- H_CMD of an illegal word
    have hstatus : StatusError 4 (popped s rest) ((popped s rest).raiseError .illegalCommand) :=
      statusError_raiseError _ .illegalCommand
    exact ⟨_, step_of_illegal_command hp hd, writesNothing_raiseError _ _, hstatus.of_popped⟩
  · -- H_RESET
    exact ⟨_, step_of_pending_inTable hp rfl, rfl, State.isWritten_resetBlock (popped s rest), rfl, rfl⟩

/-- Settles O9: each of these actions fails the table's check. -/
theorem actionsOutsideTheTableAreRefused : Obligations.ActionsOutsideTheTableAreRefused := by
  intro s a rest hp hout
  refine step_of_pending_not_inTable hp ?_
  obtain ⟨i, u, hi, rfl⟩ | ⟨i, hi, rfl | rfl⟩ | ⟨i, txt, hi | hlen, rfl⟩ := hout
  · exact decide_eq_false (Nat.not_lt.2 hi)
  · exact decide_eq_false (Nat.not_lt.2 hi)
  · exact decide_eq_false (Nat.not_lt.2 hi)
  · simp [HostAction.inTable, regNumberOk, hi]
  · have hfits : Str.fits txt = false := decide_eq_false (Nat.not_le.2 hlen)
    simp [HostAction.inTable, hfits]

/-! ### Issue order -/

/-- A run over a queue performs its first action and goes on with the rest. -/
theorem run_cons_of_inTable {a : HostAction} (ha : a.inTable = true) (n : Nat) (s : State) (rest : List HostAction) :
    Host.Core.run core (n + 1) (popped s (a :: rest)) = Host.Core.run core n (popped (actionResult a s) rest) := by
  rw [run_succ_of_next n (step_of_pending_inTable (popped_pending s (a :: rest)) ha), ← actionResult_popped]
  rfl

theorem run_cons_of_not_inTable {a : HostAction} (ha : a.inTable = false) (n : Nat) (s : State) (rest : List HostAction) :
    Host.Core.run core (n + 1) (popped s (a :: rest)) = .refused (.hostActionOutOfTable a) :=
  run_succ_of_refused n (step_of_pending_not_inTable (popped_pending s (a :: rest)) ha)

/-- Settles O11, by induction on the actions that run: each commutes with what is queued behind it. -/
theorem actionsTakeEffectInIssueOrder : Obligations.ActionsTakeEffectInIssueOrder := by
  intro as bs s t
  change Host.Core.run core as.length (popped s as) = .next t →
    t.pending = [] ∧ Host.Core.run core as.length (popped s (as ++ bs)) = .next (popped t bs)
  induction as generalizing s with
  | nil =>
    intro h
    cases h
    exact ⟨rfl, rfl⟩
  | cons a as ih =>
    cases ha : a.inTable with
    | false =>
      intro h
      rw [List.length_cons, run_cons_of_not_inTable ha] at h
      cases h
    | true =>
      rw [List.length_cons, List.cons_append, run_cons_of_inTable ha, run_cons_of_inTable ha]
      exact ih (actionResult a s)

end Sys2Proof.Machine
end

section
/-! SUPPORT. Host reads and the idempotence of host writes, clear and reset (20_memory.md R31, 70_reset_and_hazards.md
R79). -/

namespace Sys2Proof.Machine

/-- A host action that answers a next state is inside the table and answers its result. -/
theorem perform_next_actionResult {a : HostAction} {s t : State} (h : perform a s = .next t) :
    a.inTable = true ∧ t = actionResult a s := by
  obtain ⟨ha, ht⟩ := perform_next h
  rw [actionEffect_eq_actionResult] at ht
  cases ht
  exact ⟨ha, rfl⟩

theorem State.writeXWord_writeXWord (s : State) (i : RegIdx) (u v : XWord) :
    (s.writeXWord i u).writeXWord i v = s.writeXWord i v := by
  simp [State.writeXWord]

theorem State.writeS_writeS (s : State) (i : RegIdx) (txt txt' : Str) :
    (s.writeS i txt).writeS i txt' = s.writeS i txt' := by
  simp [State.writeS]

/-- Settles O10: a read's result is its reply, and each write's result absorbs the write before it. -/
theorem hostReadsChangeNothingAndWritesAreIdempotent :
    Obligations.HostReadsChangeNothingAndWritesAreIdempotent := by
  constructor
  · intro a s t ha h
    obtain ⟨-, rfl⟩ := perform_next_actionResult h
    obtain ⟨i, rfl | rfl⟩ | rfl := ha
    · exact ⟨_, rfl⟩
    · exact ⟨_, rfl⟩
    · exact ⟨_, rfl⟩
  · intro a s t ha h
    obtain ⟨htable, rfl⟩ := perform_next_actionResult h
    have twice : actionResult a (actionResult a s) = actionResult a s := by
      obtain ⟨i, u, rfl⟩ | ⟨i, txt, rfl⟩ | rfl | rfl := ha
      · exact s.writeXWord_writeXWord _ u u
      · exact s.writeS_writeS _ txt txt
      · rfl
      · rfl
    rw [perform_of_inTable htable, twice]

end Sys2Proof.Machine
end

section
/-! SUPPORT. Digits by place, most significant first: what the big-endian bytes of R12 and the hex text of R46 share, and
the value each of them spells. -/

namespace Sys2Proof.Machine

/-- The n digits of a value in base b, most significant first. -/
def placeDigits (b n v : Nat) : List Nat := (List.range n).map fun k => v / b ^ (n - 1 - k) % b

theorem placeDigits_succ (b n v : Nat) : placeDigits b (n + 1) v = v / b ^ n % b :: placeDigits b n v := by
  simp only [placeDigits, List.range_succ_eq_map, List.map_cons, List.map_map, Nat.add_sub_cancel, Nat.sub_zero]
  congr 1
  refine List.map_congr_left fun k _ => ?_
  simp only [Function.comp, show n - k.succ = n - 1 - k by omega]

/-- A digit is less than its base. -/
theorem lt_of_mem_placeDigits {b n v d : Nat} (hb : 0 < b) (h : d ∈ placeDigits b n v) : d < b := by
  obtain ⟨k, -, rfl⟩ := List.mem_map.1 h
  exact Nat.mod_lt _ hb

/-- Digits from place n on do not show in the n digits below. -/
theorem placeDigits_mul_pow_add_low {b : Nat} (hb : 0 < b) (n a r : Nat) :
    placeDigits b n (a * b ^ n + r) = placeDigits b n r := by
  refine List.map_congr_left fun k hk => ?_
  have hk : k < n := List.mem_range.1 hk
  have split : a * b ^ n = b ^ (n - 1 - k) * (b * (a * b ^ k)) := by
    calc a * b ^ n = a * b ^ ((n - 1 - k) + 1 + k) := by rw [show n - 1 - k + 1 + k = n by omega]
      _ = b ^ (n - 1 - k) * (b * (a * b ^ k)) := by ring
  rw [split, Nat.mul_add_div (Nat.pow_pos hb), Nat.mul_add_mod]

/-- The digits of two numbers written one after the other. -/
theorem placeDigits_mul_pow_add {b n r : Nat} (hr : r < b ^ n) (hb : 0 < b) (m a : Nat) :
    placeDigits b (m + n) (a * b ^ n + r) = placeDigits b m a ++ placeDigits b n r := by
  induction m with
  | zero => rw [Nat.zero_add, placeDigits_mul_pow_add_low hb]; rfl
  | succ m ih =>
    have high : (a * b ^ n + r) / b ^ (m + n) = a / b ^ m := by
      rw [Nat.add_comm m n, Nat.pow_add, ← Nat.div_div_eq_div_mul, Nat.mul_comm a,
        Nat.mul_add_div (Nat.pow_pos hb), Nat.div_eq_of_lt hr, Nat.add_zero]
    rw [Nat.add_right_comm, placeDigits_succ, ih, high, placeDigits_succ, List.cons_append]

/-! ### Big-endian bytes -/

theorem two_pow_eight_mul (n : Nat) : 2 ^ (8 * n) = 256 ^ n := Nat.pow_mul 2 8 n

/-- The bytes of R12 are the digits in base 256. -/
theorem bytesBE_eq_placeDigits (n v : Nat) : bytesBE n v = (placeDigits 256 n v).map (BitVec.ofNat 8) := by
  simp only [bytesBE, placeDigits, List.map_map]
  refine List.map_congr_left fun k hk => ?_
  have hk : k < n := List.mem_range.1 hk
  simp only [bitField, Function.comp, show 8 * n - 8 - 8 * k = 8 * (n - 1 - k) by omega, two_pow_eight_mul,
    show 8 * n - 1 - 8 * k - 8 * (n - 1 - k) + 1 = 8 by omega]
  rfl

@[simp] theorem bytesBE_length (n v : Nat) : (bytesBE n v).length = n := by
  simp [bytesBE]

theorem bytesBE_succ (n v : Nat) : bytesBE (n + 1) v = BitVec.ofNat 8 (v / 256 ^ n % 256) :: bytesBE n v := by
  simp only [bytesBE_eq_placeDigits, placeDigits_succ, List.map_cons]

theorem bytesBE_mul_pow_add {n r : Nat} (hr : r < 256 ^ n) (m a : Nat) :
    bytesBE (m + n) (a * 256 ^ n + r) = bytesBE m a ++ bytesBE n r := by
  simp only [bytesBE_eq_placeDigits, placeDigits_mul_pow_add hr (by decide), List.map_append]

/-- The bytes in reverse order, least significant first (R27). -/
theorem reverse_bytesBE (n v : Nat) :
    (bytesBE n v).reverse = (List.range n).map fun k => BitVec.ofNat 8 (v / 256 ^ k % 256) := by
  refine List.ext_getElem (by simp) fun k h _ => ?_
  have hk : k < n := by simpa using h
  simp [bytesBE_eq_placeDigits, placeDigits, show n - 1 - (n - 1 - k) = k by omega]

theorem fromBytesBE_cons (b : Byte) (l : List Byte) :
    fromBytesBE (b :: l) = b.toNat * 256 ^ l.length + fromBytesBE l := by
  rw [fromBytesBE, two_pow_eight_mul]

theorem fromBytesBE_lt (l : List Byte) : fromBytesBE l < 256 ^ l.length := by
  induction l with
  | nil => decide
  | cons b l ih =>
    have hb : b.toNat + 1 ≤ 256 := b.isLt
    calc fromBytesBE (b :: l) < (b.toNat + 1) * 256 ^ l.length := by rw [fromBytesBE_cons]; linarith
      _ ≤ 256 ^ (b :: l).length := by
        rw [List.length_cons, Nat.pow_succ']
        exact Nat.mul_le_mul_right _ hb

/-- The value of the n bytes of v. -/
theorem fromBytesBE_bytesBE (n v : Nat) : fromBytesBE (bytesBE n v) = v % 256 ^ n := by
  induction n with
  | zero => simp [bytesBE, fromBytesBE, Nat.mod_one]
  | succ n ih =>
    rw [bytesBE_succ, fromBytesBE_cons, ih, bytesBE_length, BitVec.toNat_ofNat, Nat.mod_mod, Nat.mod_pow_succ]
    ring

theorem bytesBE_one (b : Byte) : bytesBE 1 b.toNat = [b] := by
  have hb : b.toNat % 256 = b.toNat := Nat.mod_eq_of_lt b.isLt
  simp [bytesBE_eq_placeDigits, placeDigits, hb]

/-- The bytes of the value of a list of bytes are the list. -/
theorem bytesBE_fromBytesBE (l : List Byte) : bytesBE l.length (fromBytesBE l) = l := by
  induction l with
  | nil => rfl
  | cons b l ih =>
    rw [List.length_cons, Nat.add_comm, fromBytesBE_cons, bytesBE_mul_pow_add (fromBytesBE_lt l), ih, bytesBE_one]
    rfl

theorem flipBytes_lt (n v : Nat) : flipBytes n v < 256 ^ n := by
  simpa [flipBytes] using fromBytesBE_lt (bytesBE n v).reverse

/-- Reversing the bytes twice restores the value (R61). -/
theorem flipBytes_flipBytes {n v : Nat} (hv : v < 256 ^ n) : flipBytes n (flipBytes n v) = v := by
  have bytes : bytesBE n (flipBytes n v) = (bytesBE n v).reverse := by
    simpa [flipBytes] using bytesBE_fromBytesBE (bytesBE n v).reverse
  rw [flipBytes, bytes, List.reverse_reverse, fromBytesBE_bytesBE, Nat.mod_eq_of_lt hv]

theorem fromBytesBE_wireBytes (x : Nat) : fromBytesBE (wireBytes x) = flipBytes 8 x := rfl

/-! ### Hex text -/

/-- The character of a digit of R45's table. -/
theorem hexchar_eq_getD : ∀ d < 16, hexchar d = upperHexBytes.getD d 0 := by decide

theorem hexval_hexchar : ∀ d < 16, hexval? (hexchar d) = some d := by decide

theorem hexString_eq_placeDigits (n v : Nat) : hexString n v = (placeDigits 16 n v).map hexchar := by
  simp only [hexString, placeDigits, List.map_map, Nat.pow_mul, show 2 ^ 4 = 16 from rfl]
  rfl

/-- The model's hex text is R46's list. -/
theorem hexString_eq_hexText (n v : Nat) : hexString n v = hexText n v := by
  have digits : hexText n v = (placeDigits 16 n v).map (upperHexBytes.getD · 0) := by
    simp [hexText, placeDigits]
  rw [digits, hexString_eq_placeDigits]
  exact List.map_congr_left fun d hd => hexchar_eq_getD d (lt_of_mem_placeDigits (by decide) hd)

theorem hexString_succ (n v : Nat) : hexString (n + 1) v = hexchar (v / 16 ^ n % 16) :: hexString n v := by
  simp only [hexString_eq_placeDigits, placeDigits_succ, List.map_cons]

theorem hexString_mul_pow_add {n r : Nat} (hr : r < 16 ^ n) (m a : Nat) :
    hexString (m + n) (a * 16 ^ n + r) = hexString m a ++ hexString n r := by
  simp only [hexString_eq_placeDigits, placeDigits_mul_pow_add hr (by decide), List.map_append]

/-- HENC writes hex digits only (R45, R46). -/
theorem all_isHexDigit_hexString (n v : Nat) : (hexString n v).all isHexDigit = true := by
  rw [hexString_eq_placeDigits, List.all_map, List.all_eq_true]
  intro d hd
  simp [isHexDigit, hexval_hexchar d (lt_of_mem_placeDigits (by decide) hd)]

/-- The value of the n hex digits of v. -/
theorem hexValue_hexString (n v : Nat) : hexValue (hexString n v) = v % 16 ^ n := by
  induction n with
  | zero => simp [hexString, hexValue, Nat.mod_one]
  | succ n ih =>
    rw [hexString_succ, hexValue, ih, hexval_hexchar _ (Nat.mod_lt _ (by decide)), hexString_length, Option.getD_some,
      Nat.mod_pow_succ]
    ring

theorem pow_256_eq_pow_16 (n : Nat) : 256 ^ n = 16 ^ (2 * n) := by
  rw [Nat.pow_mul]

/-- The hex text of a value given by its bytes: each byte's two digits, in the bytes' order. -/
theorem hexString_fromBytesBE (l : List Byte) :
    hexString (2 * l.length) (fromBytesBE l) = l.flatMap fun b => hexString 2 b.toNat := by
  induction l with
  | nil => rfl
  | cons b l ih =>
    have hr := fromBytesBE_lt l
    rw [pow_256_eq_pow_16] at hr
    rw [fromBytesBE_cons, pow_256_eq_pow_16, List.length_cons, Nat.mul_succ, Nat.add_comm, hexString_mul_pow_add hr, ih,
      List.flatMap_cons]

/-- The hex text of a flipped value: each byte's two digits, least significant byte first. -/
theorem hexString_flipBytes (n v : Nat) :
    hexString (2 * n) (flipBytes n v) = (List.range n).flatMap fun k => hexText 2 (v / 256 ^ k % 256) := by
  have text := hexString_fromBytesBE (bytesBE n v).reverse
  rw [List.length_reverse, bytesBE_length] at text
  rw [flipBytes, text, reverse_bytesBE, List.flatMap_map]
  simp [hexString_eq_hexText]

end Sys2Proof.Machine
end

section
/-! SUPPORT. The success of one command as `SucceedsX` or `SucceedsS`, and sequences of commands (30_encoding.md R43,
60_exceptions.md R66). -/

namespace Sys2Proof.Machine

/-! ### Success -/

@[simp] theorem State.isWritten_done (s : State) (r : Reg) : s.done.isWritten r = s.isWritten r := by
  cases r <;> rfl

theorem WritesX.done {rd : RegIdx} {v : Int} {s t : State} (h : WritesX rd v s t) : WritesX rd v s t.done where
  value := h.value
  otherX := h.otherX
  strings := h.strings
  marks r := by rw [State.isWritten_done, h.marks]
  pending := h.pending
  replies := h.replies

theorem WritesS.done {rd : RegIdx} {txt : Str} {s t : State} (h : WritesS rd txt s t) : WritesS rd txt s t.done where
  value := h.value
  otherS := h.otherS
  integers := h.integers
  marks r := by rw [State.isWritten_done, h.marks]
  pending := h.pending
  replies := h.replies

theorem statusSuccess_done {s t : State} (h : t.status = s.status) : StatusSuccess s t.done := by
  constructor <;> simp [h]

/-- Two successes one after the other are one for STATUS (R66). -/
theorem StatusSuccess.trans {s t u : State} (h : StatusSuccess s t) (h' : StatusSuccess t u) : StatusSuccess s u where
  err := h'.err
  inv := h'.inv
  serr := h'.serr.trans h.serr
  sinv := h'.sinv.trans h.sinv
  reserved := h'.reserved.trans h.reserved

/-- A command that ends with an integer of the register range succeeds with it. -/
theorem succeedsX_of_commandEnd {i : Instr} {s : State} {v : Int} (h : commandEnd i s = .doneX v)
    (lo : -2 ^ 255 ≤ v) (hi : v < 2 ^ 255) : SucceedsX i (destinationIndex i) v s := by
  refine ⟨_, exec_eq_endCommand i s, ?_⟩
  rw [h, State.endCommand_doneX]
  exact ⟨(writesX_writeX s _ lo hi).done, statusSuccess_done rfl⟩

/-- A command that ends with a string succeeds with it. -/
theorem succeedsS_of_commandEnd {i : Instr} {s : State} {txt : Str} (h : commandEnd i s = .doneS txt) :
    SucceedsS i (destinationIndex i) txt s := by
  refine ⟨_, exec_eq_endCommand i s, ?_⟩
  rw [h, State.endCommand_doneS]
  exact ⟨(writesS_writeS s _ txt).done, statusSuccess_done rfl⟩

theorem inWidth_natCast {w : Width} {v : Nat} (hv : v < 2 ^ w.bits) : inWidth w v = true :=
  decide_eq_true ⟨Int.natCast_nonneg v, by exact_mod_cast hv⟩

theorem natCast_lt_two_pow_255 {v k : Nat} (hk : k ≤ 255) (hv : v < 2 ^ k) : (v : Int) < 2 ^ 255 := by
  exact_mod_cast hv.trans_le (Nat.pow_le_pow_right (by decide) hk)

theorem neg_two_pow_255_le_natCast (v : Nat) : -2 ^ 255 ≤ (v : Int) :=
  le_trans (by decide) (Int.natCast_nonneg v)

/-- A width is a whole number of bytes, as a bound on values (R7). -/
theorem pow_bytes_eq_pow_bits (w : Width) : 256 ^ w.bytes = 2 ^ w.bits := by
  cases w <;> decide

theorem pow_digits_eq_pow_bits (w : Width) : 16 ^ w.digits = 2 ^ w.bits := by
  cases w <;> decide

theorem digits_pos (w : Width) : 0 < w.digits := by
  cases w <;> decide

/-- No width reaches the sign bit of a register (R7, R15). -/
theorem bits_le (w : Width) : w.bits ≤ 255 := by
  cases w <;> decide

/-- HENC of a value of the width (R46). -/
theorem succeedsS_henc {rd ra : RegIdx} {w : Width} {s : State} {v : Nat} (hread : s.readX ra = v)
    (hv : v < 2 ^ w.bits) : SucceedsS (.henc rd ra w) rd (hexString w.digits v) s :=
  succeedsS_of_commandEnd (i := .henc rd ra w) (by simp [commandEnd, hencEnd, hread, inWidth_natCast hv])

/-- FLIPX of a value of the width (R62). -/
theorem succeedsX_flipx {rd ra : RegIdx} {w : Width} {s : State} {v : Nat} (hread : s.readX ra = v)
    (hv : v < 2 ^ w.bits) : SucceedsX (.flipx rd ra w) rd (flipBytes w.bytes v) s :=
  succeedsX_of_commandEnd (i := .flipx rd ra w) (by simp [commandEnd, flipxEnd, hread, inWidth_natCast hv])
    (neg_two_pow_255_le_natCast _)
    (natCast_lt_two_pow_255 (bits_le w) (pow_bytes_eq_pow_bits w ▸ flipBytes_lt w.bytes v))

/-- HDEC of the text HENC writes for a value of the same width (R46, R47). -/
theorem succeedsX_hdec_hexString {rd ra : RegIdx} {w : Width} {s : State} {v : Nat}
    (hread : s.readS ra = hexString w.digits v) (hv : v < 2 ^ w.bits) : SucceedsX (.hdec rd ra w) rd v s := by
  have hne : hexString w.digits v ≠ [] := List.ne_nil_of_length_pos (by rw [hexString_length]; exact digits_pos w)
  refine succeedsX_of_commandEnd (i := .hdec rd ra w) ?_ (neg_two_pow_255_le_natCast _)
    (natCast_lt_two_pow_255 (bits_le w) hv)
  rw [commandEnd, hread, hdecEnd, if_neg hne, if_pos (all_isHexDigit_hexString w.digits v), hexValue_hexString,
    pow_digits_eq_pow_bits, Nat.mod_eq_of_lt hv]

/-! ### Sequences -/

theorem execAll_cons {i : Instr} {s t : State} (h : exec i s = .next t) (is : List Instr) :
    execAll (i :: is) s = execAll is t := by
  simp only [execAll, h]

theorem execAll_append {is : List Instr} {s t : State} (h : execAll is s = .next t) (js : List Instr) :
    execAll (is ++ js) s = execAll js t := by
  induction is generalizing s with
  | nil =>
    cases h
    rfl
  | cons i is ih =>
    rw [execAll_cons (exec_eq_endCommand i s)] at h
    rw [List.cons_append, execAll_cons (exec_eq_endCommand i s), ih h]

end Sys2Proof.Machine
end

section
/-! SUPPORT. The word XPACK packs: its bound (41_xfl_pack.md R50 to R53), and its way over the wire (20_memory.md R27,
R29; 30_encoding.md R43). -/

namespace Sys2Proof.Machine

/-! ### The bound of a packed word -/

/-- The first loop of `norm` ends at or below MMAX when it may run as often as the magnitude. -/
theorem divideDown_le_max {fuel a : Nat} (h : a ≤ fuel) (e : Int) : (divideDown fuel a e).1 ≤ xflMmax := by
  induction fuel generalizing a e with
  | zero => exact h.trans (by decide)
  | succ fuel ih =>
    rw [divideDown]
    split
    · exact ih (by omega) _
    · exact Nat.not_lt.1 ‹_›

/-- The second loop of `norm` does not leave the range below MMAX: it multiplies below MMIN only. -/
theorem multiplyUp_le_max {a : Nat} (h : a ≤ xflMmax) (fuel : Nat) (e : Int) :
    (multiplyUp fuel a e).1 ≤ xflMmax := by
  induction fuel generalizing a e with
  | zero => exact h
  | succ fuel ih =>
    rw [multiplyUp]
    split
    · rename_i hlow
      exact ih (by simp only [xflMmin, xflMmax] at hlow ⊢; omega) _
    · exact h

theorem norm_le_max (a : Nat) (e : Int) : (norm a e).1 ≤ xflMmax :=
  multiplyUp_le_max (divideDown_le_max le_rfl e) 15 _

/-- The three fields of R52 lie below bit 63. -/
theorem packXfl_lt {en : Int} {mn : Nat} (lo : xflEmin ≤ en) (hi : en ≤ xflEmax) (hmn : mn ≤ xflMmax) (pos : Bool) :
    packXfl pos en mn < 2 ^ 63 := by
  have hexp : (en + xflBias).toNat < 2 ^ 8 := by
    simp only [xflEmin, xflEmax, xflBias] at lo hi ⊢
    omega
  have hsign : (if pos then 1 else 0) < 2 ^ 1 := by split <;> decide
  exact Nat.or_lt_two_pow (Nat.or_lt_two_pow (Nat.shiftLeft_lt hsign)
    ((Nat.shiftLeft_lt hexp).trans (by decide))) (hmn.trans_lt (by decide))

/-- A word XPACK writes on success lies in the decode domain (R53, R54). -/
theorem makeXfl_doneX {e m v : Int} (h : makeXfl e m = .doneX v) : ∃ raw : Nat, v = raw ∧ raw < 2 ^ 63 := by
  simp only [makeXfl] at h
  split_ifs at h with hzero hnorm hexp
  · cases h
    exact ⟨0, rfl, by decide⟩
  · cases h
    exact ⟨0, rfl, by decide⟩
  · cases h
    obtain ⟨lo, hi⟩ := not_or.1 hexp
    exact ⟨_, rfl, packXfl_lt (not_lt.1 lo) (not_lt.1 hi) (norm_le_max _ _) _⟩

/-- XPACK that leaves INV 0 has succeeded, with a word of the decode domain. -/
theorem xpack_succeeds_of_not_inv {rd ra rb : RegIdx} {s p : State} (h : exec (.xpack rd ra rb) s = .next p)
    (hinv : statusInv p.status = false) :
    ∃ raw : Nat, raw < 2 ^ 63 ∧ WritesX rd raw s p ∧ StatusSuccess s p := by
  obtain ⟨word, hend⟩ | hend := makeXfl_cases (s.readX ra) (s.readX rb)
  · obtain ⟨raw, hraw, hlt⟩ := makeXfl_doneX hend
    obtain ⟨t, ht, hw, hs⟩ := succeedsX_of_commandEnd (i := .xpack rd ra rb) (hraw ▸ hend)
      (neg_two_pow_255_le_natCast raw) (natCast_lt_two_pow_255 (by decide) hlt)
    cases ht.symm.trans h
    exact ⟨raw, hlt, hw, hs⟩
  · have hsentinel : exec (.xpack rd ra rb) s = .next (s.returnSentinel rd) := by
      rw [exec_eq_endCommand, commandEnd, hend]
      rfl
    cases hsentinel.symm.trans h
    simp at hinv

/-! ### XTOWIRE and XFROMWIRE -/

/-- XTOWIRE after its XPACK: FLIPX, then HENC of the flipped word (R43). -/
theorem execAll_xtowire {sd xa xb xt : RegIdx} {s p : State} {raw : Nat} (hpack : exec (.xpack xt xa xb) s = .next p)
    (hstatus : StatusSuccess s p) (hread : p.readX xt = raw) (hraw : raw < 2 ^ 64) :
    ∃ t, execAll (xtowire sd xa xb xt) s = .next t ∧ StatusSuccess s t ∧ t.readX xt = flipBytes 8 raw ∧
      t.readS sd = hexString 16 (flipBytes 8 raw) := by
  obtain ⟨q, hflip, hqx, hqs⟩ := succeedsX_flipx (rd := xt) (w := .w64) hread hraw
  obtain ⟨t, hhenc, hts, hst⟩ := succeedsS_henc (rd := sd) (w := .w64) hqx.value (flipBytes_lt 8 raw)
  refine ⟨t, ?_, (hstatus.trans hqs).trans hst, (hts.integers xt).trans hqx.value, hts.value⟩
  rw [xtowire, execAll_cons hpack, execAll_cons hflip, execAll_cons hhenc, execAll]

/-- XFROMWIRE of the hex text of a 64-bit word: HDEC, then FLIPX (R43). -/
theorem execAll_xfromwire {xd sa : RegIdx} {s : State} {v : Nat} (hread : s.readS sa = hexString 16 v)
    (hv : v < 2 ^ 64) :
    ∃ t, execAll (xfromwire xd sa) s = .next t ∧ StatusSuccess s t ∧ t.readX xd = flipBytes 8 v := by
  obtain ⟨q, hhdec, hqx, hqs⟩ := succeedsX_hdec_hexString (rd := xd) (w := .w64) hread hv
  obtain ⟨t, hflip, htx, hts⟩ := succeedsX_flipx (rd := xd) (w := .w64) hqx.value hv
  refine ⟨t, ?_, hqs.trans hts, htx.value⟩
  rw [xfromwire, execAll_cons hhdec, execAll_cons hflip, execAll]

/-- Settles O39: HENC's text of the flipped word is that of the bytes in wire order. -/
theorem xtowireWritesTheWireOrderText : Obligations.XtowireWritesTheWireOrderText := by
  intro sd xa xb xt s p hpack hinv
  obtain ⟨raw, hraw, hw, hs⟩ := xpack_succeeds_of_not_inv hpack hinv
  obtain ⟨t, hrun, hst, htx, hts⟩ := execAll_xtowire (sd := sd) hpack hs hw.value (hraw.trans (by decide))
  refine ⟨t, hrun, hst, ?_, ?_⟩
  · rw [htx, hw.value, Int.toNat_natCast, fromBytesBE_wireBytes]
  · rw [hts, hw.value, Int.toNat_natCast, hexString_flipBytes 8 raw]

/-- Settles O41: HDEC undoes HENC, and the second FLIPX the first. -/
theorem xfromwireAfterXtowireGivesThePackedWord : Obligations.XfromwireAfterXtowireGivesThePackedWord := by
  intro sd xa xb xt xd s p hpack hinv
  obtain ⟨raw, hraw, hw, hs⟩ := xpack_succeeds_of_not_inv hpack hinv
  have hword : raw < 2 ^ 64 := hraw.trans (by decide)
  obtain ⟨q, hto, hsq, -, hqs⟩ := execAll_xtowire (sd := sd) hpack hs hw.value hword
  obtain ⟨t, hfrom, hqt, htx⟩ := execAll_xfromwire (xd := xd) hqs (flipBytes_lt 8 raw)
  refine ⟨t, ?_, ?_, hsq.trans hqt⟩
  · rw [execAll_append hto, hfrom]
  · rw [htx, hw.value, flipBytes_flipBytes hword]

end Sys2Proof.Machine
end

section
/-! SUPPORT. Command words by their fields (30_encoding.md R36): what each field of a packed word is, the round trip of the
decoder and the encoder, and the opcode table of R39 read field by field. -/

namespace Sys2Proof.Machine

/-! ### Fields as numbers -/

/-- Appending `n` bits below is shifting up by `n` places and adding. -/
theorem toNat_append_eq_mul_add {m n : Nat} (x : BitVec m) (y : BitVec n) :
    (x ++ y).toNat = x.toNat * 2 ^ n + y.toNat := by
  rw [BitVec.toNat_append, ← Nat.shiftLeft_add_eq_or_of_lt y.isLt, Nat.shiftLeft_eq]

theorem toNat_fieldOP (w : Word32) : (fieldOP w).toNat = w.toNat % 256 := by
  simp [fieldOP]

theorem val_fieldRD (w : Word32) : (fieldRD w).val = w.toNat / 2 ^ 8 % 8 := by
  simp [fieldRD, Nat.shiftRight_eq_div_pow]

theorem val_fieldRA (w : Word32) : (fieldRA w).val = w.toNat / 2 ^ 11 % 8 := by
  simp [fieldRA, Nat.shiftRight_eq_div_pow]

theorem val_fieldRB (w : Word32) : (fieldRB w).val = w.toNat / 2 ^ 14 % 8 := by
  simp [fieldRB, Nat.shiftRight_eq_div_pow]

theorem toNat_fieldWC (w : Word32) : (fieldWC w).toNat = w.toNat / 2 ^ 17 % 8 := by
  simp [fieldWC, Nat.shiftRight_eq_div_pow]

theorem toNat_fieldRSV (w : Word32) : (fieldRSV w).toNat = w.toNat / 2 ^ 20 := by
  have hw : w.toNat < 2 ^ 32 := w.isLt
  simp only [fieldRSV, BitVec.extractLsb'_toNat, Nat.shiftRight_eq_div_pow]
  omega

theorem fieldRSV_eq_zero_iff {w : Word32} : fieldRSV w = 0 ↔ w.toNat / 2 ^ 20 = 0 := by
  rw [← toNat_fieldRSV]
  exact BitVec.toNat_inj.symm

theorem toNat_packWord (wc : BitVec 3) (rb ra rd : RegIdx) (op : BitVec 8) :
    (packWord wc rb ra rd op).toNat =
      wc.toNat * 2 ^ 17 + rb.val * 2 ^ 14 + ra.val * 2 ^ 11 + rd.val * 2 ^ 8 + op.toNat := by
  have layout : (packWord wc rb ra rd op).toNat =
      (0#12 ++ wc ++ (BitVec.ofFin rb : BitVec 3) ++ (BitVec.ofFin ra : BitVec 3) ++ (BitVec.ofFin rd : BitVec 3) ++
        op).toNat := rfl
  simp only [layout, toNat_append_eq_mul_add, BitVec.toNat_ofFin, BitVec.toNat_ofNat]
  omega

/-! ### A word is its fields -/

theorem word_eq_iff {v w : Word32} :
    v = w ↔ fieldRSV v = fieldRSV w ∧ fieldWC v = fieldWC w ∧ fieldRB v = fieldRB w ∧ fieldRA v = fieldRA w ∧
      fieldRD v = fieldRD w ∧ fieldOP v = fieldOP w := by
  simp only [← BitVec.toNat_inj, ← Fin.val_inj, toNat_fieldRSV, toNat_fieldWC, val_fieldRB, val_fieldRA, val_fieldRD,
    toNat_fieldOP]
  omega

/-- The packed word is the one word with these fields and RSV 0. -/
theorem packWord_eq_iff {wc : BitVec 3} {rb ra rd : RegIdx} {op : BitVec 8} {w : Word32} :
    packWord wc rb ra rd op = w ↔ fieldRSV w = 0 ∧ fieldWC w = wc ∧ fieldRB w = rb ∧ fieldRA w = ra ∧
      fieldRD w = rd ∧ fieldOP w = op := by
  have hwc : wc.toNat < 8 := wc.isLt
  have hop : op.toNat < 256 := op.isLt
  rw [fieldRSV_eq_zero_iff]
  simp only [← BitVec.toNat_inj, ← Fin.val_inj, toNat_packWord, toNat_fieldWC, val_fieldRB, val_fieldRA, val_fieldRD,
    toNat_fieldOP]
  omega

theorem packWord_fields (wc : BitVec 3) (rb ra rd : RegIdx) (op : BitVec 8) :
    fieldRSV (packWord wc rb ra rd op) = 0 ∧ fieldWC (packWord wc rb ra rd op) = wc ∧
      fieldRB (packWord wc rb ra rd op) = rb ∧ fieldRA (packWord wc rb ra rd op) = ra ∧
      fieldRD (packWord wc rb ra rd op) = rd ∧ fieldOP (packWord wc rb ra rd op) = op :=
  packWord_eq_iff.1 rfl

/-! ### Width codes -/

@[simp] theorem ofCode?_code (width : Width) : Width.ofCode? width.code = some width := by
  cases width <;> rfl

theorem code_of_ofCode? {c : BitVec 3} {width : Width} (h : Width.ofCode? c = some width) : width.code = c := by
  simp only [Width.ofCode?] at h
  split_ifs at h <;> cases h <;> exact Eq.symm ‹_›

/-- The codes 0 to 4 are width codes (R38). -/
theorem exists_code_eq {c : BitVec 3} (hc : c.toNat ≤ 4) : ∃ width : Width, width.code = c := by
  have code : ∀ c : BitVec 3, c.toNat ≤ 4 → (Width.ofCode? c).isSome = true := by decide
  exact (Option.isSome_iff_exists.1 (code c hc)).imp fun _ => code_of_ofCode?

/-! ### The round trip -/

theorem decode_encode (i : Instr) : decode (encode i) = .ok i := by
  cases i <;> simp [encode, decode, packWord_fields, withWidth, withoutWidth, withoutRB]

/-- Settles O2: the decoder reads back every field the encoder packs. -/
theorem decodeOfEncodeIsTheCommand : Obligations.DecodeOfEncodeIsTheCommand :=
  decode_encode

theorem withWidth_eq_ok {w : Word32} {k : Width → Except DecodeError Instr} {i : Instr} :
    withWidth w k = .ok i ↔ ∃ width : Width, width.code = fieldWC w ∧ k width = .ok i := by
  constructor
  · intro h
    rw [withWidth] at h
    split at h
    · exact ⟨_, code_of_ofCode? ‹_›, h⟩
    · cases h
  · rintro ⟨width, hcode, h⟩
    rw [withWidth, ← hcode, ofCode?_code]
    exact h

theorem withoutWidth_eq_ok {w : Word32} {k : Except DecodeError Instr} {i : Instr} :
    withoutWidth w k = .ok i ↔ fieldWC w = 0 ∧ k = .ok i := by
  by_cases h : fieldWC w = 0 <;> simp only [withoutWidth, h, if_true, if_false, true_and, false_and, reduceCtorEq]

theorem withoutRB_eq_ok {w : Word32} {i j : Instr} : withoutRB w i = .ok j ↔ fieldRB w = 0 ∧ i = j := by
  by_cases h : fieldRB w = 0 <;>
    simp only [withoutRB, h, if_true, if_false, true_and, false_and, reduceCtorEq, Except.ok.injEq]

/-- Each row's checks fix all the fields that its operands do not. -/
theorem encode_of_decode {w : Word32} {i : Instr} (h : decode w = .ok i) : encode i = w := by
  rw [decode] at h
  split at h
  · next hrsv =>
    split at h <;>
      simp only [withWidth_eq_ok, withoutWidth_eq_ok, withoutRB_eq_ok, Except.ok.injEq, reduceCtorEq] at h
    case h_1 hop | h_2 hop | h_7 hop =>
      obtain ⟨width, hwc, hrb, rfl⟩ := h
      exact packWord_eq_iff.2 ⟨hrsv, hwc.symm, hrb, rfl, rfl, BitVec.eq_of_toNat_eq hop⟩
    case h_3 hop =>
      obtain ⟨hwc, rfl⟩ := h
      exact packWord_eq_iff.2 ⟨hrsv, hwc, rfl, rfl, rfl, BitVec.eq_of_toNat_eq hop⟩
    case h_4 hop | h_5 hop | h_6 hop | h_8 hop =>
      obtain ⟨hwc, hrb, rfl⟩ := h
      exact packWord_eq_iff.2 ⟨hrsv, hwc, hrb, rfl, rfl, BitVec.eq_of_toNat_eq hop⟩
  · cases h

/-- Settles O3: the word is fixed by its fields. -/
theorem legalWordIsTheEncodingOfItsCommand : Obligations.LegalWordIsTheEncodingOfItsCommand :=
  fun _ _ => encode_of_decode

/-- The decoder and the encoder are inverse to each other on legal words. -/
theorem decode_eq_ok_iff {w : Word32} {i : Instr} : decode w = .ok i ↔ encode i = w :=
  ⟨encode_of_decode, fun h => h ▸ decode_encode i⟩

/-- Settles O1: each word is the encoding of its command. -/
theorem decodeReadsTheSpecsWords : Obligations.DecodeReadsTheSpecsWords := by
  unfold Obligations.DecodeReadsTheSpecsWords
  simp only [decode_eq_ok_iff]
  decide

end Sys2Proof.Machine
end

section
/-! SUPPORT. The opcode table of 30_encoding.md R39 read field by field: which words a row accepts, and that they are the
words of its command (R40, R41). -/

namespace Sys2Proof.Machine

/-! ### The match and mask columns, field by field -/

theorem fieldRSV_and (v w : Word32) : fieldRSV (v &&& w) = fieldRSV v &&& fieldRSV w := BitVec.extractLsb'_and
theorem fieldWC_and (v w : Word32) : fieldWC (v &&& w) = fieldWC v &&& fieldWC w := BitVec.extractLsb'_and
theorem fieldOP_and (v w : Word32) : fieldOP (v &&& w) = fieldOP v &&& fieldOP w := BitVec.extractLsb'_and

theorem fieldRB_and (v w : Word32) : fieldRB (v &&& w) = fieldRB v &&& fieldRB w := by
  simp only [fieldRB, BitVec.extractLsb'_and, BitVec.toFin_and]

theorem fieldRA_and (v w : Word32) : fieldRA (v &&& w) = fieldRA v &&& fieldRA w := by
  simp only [fieldRA, BitVec.extractLsb'_and, BitVec.toFin_and]

theorem fieldRD_and (v w : Word32) : fieldRD (v &&& w) = fieldRD v &&& fieldRD w := by
  simp only [fieldRD, BitVec.extractLsb'_and, BitVec.toFin_and]

/-- The opcodes of the commands that use WC (R39). -/
abbrev UsesWC (op : BitVec 8) : Prop := op = 1 ∨ op = 2 ∨ op = 7

/-- What the columns of a row say: the match is the opcode alone, and the mask covers OP, RSV, WC if the command does not
use it, and RB if it is not XPACK's. -/
structure RowLayout (r : OpcodeRow) : Prop where
  opRange : (fieldOP r.matchWord).toNat ≠ 0 ∧ (fieldOP r.matchWord).toNat ≤ 8
  usesWidth : r.usesWidth = true ↔ UsesWC (fieldOP r.matchWord)
  matchWord : packWord 0 0 0 0 (fieldOP r.matchWord) = r.matchWord
  maskRSV : fieldRSV r.mask = BitVec.allOnes 12
  maskWC : fieldWC r.mask = if UsesWC (fieldOP r.matchWord) then 0 else BitVec.allOnes 3
  maskRB : fieldRB r.mask = if fieldOP r.matchWord = 3 then 0 else 7
  maskRA : fieldRA r.mask = 0
  maskRD : fieldRD r.mask = 0
  maskOP : fieldOP r.mask = BitVec.allOnes 8

theorem rowLayout {r : OpcodeRow} (hr : r ∈ opcodeTable) : RowLayout r := by
  fin_cases hr <;> constructor <;> decide

theorem and_zero_index : ∀ i : RegIdx, i &&& 0 = 0 := by decide

theorem and_seven_index : ∀ i : RegIdx, i &&& 7 = i := by decide

theorem and_maskWC_eq_zero_iff (p : Prop) [Decidable p] (c : BitVec 3) :
    c &&& (if p then 0 else BitVec.allOnes 3) = 0 ↔ (¬p → c = 0) := by
  by_cases h : p
  · simp [h]
  · simp only [h, if_false, BitVec.and_allOnes, not_false_iff, true_imp_iff]

theorem and_maskRB_eq_zero_iff (p : Prop) [Decidable p] (i : RegIdx) :
    i &&& (if p then 0 else 7) = 0 ↔ (¬p → i = 0) := by
  by_cases h : p <;> simp [h, and_zero_index, and_seven_index]

/-- The words a row accepts, by their fields. -/
theorem accepts_iff_fields {r : OpcodeRow} (hr : r ∈ opcodeTable) (w : Word32) :
    r.accepts w = true ↔ fieldRSV w = 0 ∧ (¬UsesWC (fieldOP r.matchWord) → fieldWC w = 0) ∧
      (fieldOP r.matchWord ≠ 3 → fieldRB w = 0) ∧ fieldOP w = fieldOP r.matchWord ∧
      (UsesWC (fieldOP r.matchWord) → (fieldWC w).toNat ≤ 4) := by
  obtain ⟨-, usesWidth, hmatch, maskRSV, maskWC, maskRB, maskRA, maskRD, maskOP⟩ := rowLayout hr
  obtain ⟨matchRSV, matchWC, matchRB, matchRA, matchRD, -⟩ := packWord_eq_iff.1 hmatch
  have masked : w &&& r.mask = r.matchWord ↔ fieldRSV w = 0 ∧ (¬UsesWC (fieldOP r.matchWord) → fieldWC w = 0) ∧
      (fieldOP r.matchWord ≠ 3 → fieldRB w = 0) ∧ fieldOP w = fieldOP r.matchWord := by
    simp only [word_eq_iff, fieldRSV_and, fieldWC_and, fieldRB_and, fieldRA_and, fieldRD_and, fieldOP_and, maskRSV, maskWC,
      maskRB, maskRA, maskRD, maskOP, matchRSV, matchWC, matchRB, matchRA, matchRD, BitVec.and_allOnes, and_zero_index,
      and_maskWC_eq_zero_iff, and_maskRB_eq_zero_iff, true_and]
  have widthCode : (!r.usesWidth || decide ((w.extractLsb' 17 3).toNat ≤ 4)) = true ↔
      (UsesWC (fieldOP r.matchWord) → (fieldWC w).toNat ≤ 4) := by
    rw [← usesWidth]
    cases r.usesWidth <;> simp [fieldWC]
  rw [OpcodeRow.accepts, Bool.and_eq_true, beq_iff_eq, masked, widthCode]
  simp only [and_assoc]

/-! ### Legal and illegal words -/

/-- R41's list, by the fields of the word. -/
theorem illegalWord_iff_fields (w : Word32) :
    IllegalWord w ↔ (fieldOP w).toNat = 0 ∨ 9 ≤ (fieldOP w).toNat ∨ fieldRSV w ≠ 0 ∨
      (UsesWC (fieldOP w) ∧ 5 ≤ (fieldWC w).toNat) ∨ (¬UsesWC (fieldOP w) ∧ fieldWC w ≠ 0) ∨
      (fieldOP w ≠ 3 ∧ fieldRB w ≠ 0) := by
  rw [ne_eq (fieldRSV w), fieldRSV_eq_zero_iff]
  simp only [IllegalWord, UsesWC, ne_eq, ← BitVec.toNat_inj, ← Fin.val_inj, toNat_fieldOP, toNat_fieldWC, val_fieldRB]
  rfl

/-- A row accepts the words with its opcode that R41 does not list. -/
theorem accepts_iff {r : OpcodeRow} (hr : r ∈ opcodeTable) (w : Word32) :
    r.accepts w = true ↔ ¬IllegalWord w ∧ fieldOP w = fieldOP r.matchWord := by
  obtain ⟨nonzero, le_eight⟩ := (rowLayout hr).opRange
  rw [accepts_iff_fields hr, illegalWord_iff_fields]
  by_cases hop : fieldOP w = fieldOP r.matchWord
  · simp only [hop, not_or, not_and, not_le, not_not, ne_eq, nonzero, Nat.lt_succ_iff, le_eight, not_false_iff, true_and,
      and_true]
    exact and_congr_right' (by rw [← and_assoc, and_comm])
  · simp only [hop, and_false, false_and]

theorem exists_row_of_opcode :
    ∀ op : BitVec 8, op.toNat ≠ 0 → op.toNat < 9 → ∃ r ∈ opcodeTable, op = fieldOP r.matchWord := by
  decide

theorem exists_accepts_of_legal {w : Word32} (legal : ¬IllegalWord w) : ∃ r ∈ opcodeTable, r.accepts w = true := by
  have fields := legal
  simp only [illegalWord_iff_fields, not_or, not_le] at fields
  obtain ⟨nonzero, lt_nine, -⟩ := fields
  obtain ⟨r, hr, hop⟩ := exists_row_of_opcode _ nonzero lt_nine
  exact ⟨r, hr, (accepts_iff hr w).2 ⟨legal, hop⟩⟩

/-! ### Rows and commands -/

/-- A word that a row accepts is the word of a command of that row. -/
theorem exists_encode_of_accepts {r : OpcodeRow} (hr : r ∈ opcodeTable) {w : Word32} (h : r.accepts w = true) :
    ∃ i, encode i = w ∧ r.mnemonic = mnemonicOf i := by
  obtain ⟨hrsv, hnoWidth, hrb, hop, hwidth⟩ := (accepts_iff_fields hr w).1 h
  have withWC (hu : UsesWC (fieldOP r.matchWord)) (h3 : fieldOP r.matchWord ≠ 3) :
      ∃ width : Width, packWord width.code 0 (fieldRA w) (fieldRD w) (fieldOP r.matchWord) = w :=
    (exists_code_eq (hwidth hu)).imp fun _ hcode => packWord_eq_iff.2 ⟨hrsv, hcode.symm, hrb h3, rfl, rfl, hop⟩
  have withRB (hu : ¬UsesWC (fieldOP r.matchWord)) :
      packWord 0 (fieldRB w) (fieldRA w) (fieldRD w) (fieldOP r.matchWord) = w :=
    packWord_eq_iff.2 ⟨hrsv, hnoWidth hu, rfl, rfl, rfl, hop⟩
  have withNeither (hu : ¬UsesWC (fieldOP r.matchWord)) (h3 : fieldOP r.matchWord ≠ 3) :
      packWord 0 0 (fieldRA w) (fieldRD w) (fieldOP r.matchWord) = w :=
    packWord_eq_iff.2 ⟨hrsv, hnoWidth hu, hrb h3, rfl, rfl, hop⟩
  fin_cases hr
  · exact (withWC (by decide) (by decide)).elim fun _ hw => ⟨.henc _ _ _, hw, rfl⟩
  · exact (withWC (by decide) (by decide)).elim fun _ hw => ⟨.hdec _ _ _, hw, rfl⟩
  · exact ⟨.xpack _ _ _, withRB (by decide), rfl⟩
  · exact ⟨.xexp _ _, withNeither (by decide) (by decide), rfl⟩
  · exact ⟨.xman _ _, withNeither (by decide) (by decide), rfl⟩
  · exact ⟨.xneg _ _, withNeither (by decide) (by decide), rfl⟩
  · exact (withWC (by decide) (by decide)).elim fun _ hw => ⟨.flipx _ _ _, hw, rfl⟩
  · exact ⟨.flips _ _, withNeither (by decide) (by decide), rfl⟩

theorem legalWord_encode (i : Instr) : legalWord (encode i) = true :=
  match i with
  | .henc rd ra w => Laws.EncodesLegalWord.henc rd ra w
  | .hdec rd ra w => Laws.EncodesLegalWord.hdec rd ra w
  | .xpack rd ra rb => Laws.EncodesLegalWord.xpack rd ra rb
  | .xexp rd ra => Laws.EncodesLegalWord.xexp rd ra
  | .xman rd ra => Laws.EncodesLegalWord.xman rd ra
  | .xneg rd ra => Laws.EncodesLegalWord.xneg rd ra
  | .flipx rd ra w => Laws.EncodesLegalWord.flipx rd ra w
  | .flips rd ra => Laws.EncodesLegalWord.flips rd ra

theorem exists_accepts_of_decode {w : Word32} {i : Instr} (hd : decode w = .ok i) :
    ∃ r ∈ opcodeTable, r.accepts w = true := by
  rw [← encode_of_decode hd]
  exact List.any_eq_true.1 (legalWord_encode i)

theorem exists_decode_of_accepts {r : OpcodeRow} (hr : r ∈ opcodeTable) {w : Word32} (h : r.accepts w = true) :
    ∃ i, decode w = .ok i :=
  (exists_encode_of_accepts hr h).imp fun _ hi => decode_eq_ok_iff.2 hi.1

theorem mnemonic_of_accepts {r : OpcodeRow} (hr : r ∈ opcodeTable) {w : Word32} (h : r.accepts w = true) {i : Instr}
    (hd : decode w = .ok i) : r.mnemonic = mnemonicOf i := by
  obtain ⟨j, hj, hm⟩ := exists_encode_of_accepts hr h
  cases (decode_eq_ok_iff.2 hj).symm.trans hd
  exact hm

theorem row_eq_of_mnemonic_eq : ∀ r ∈ opcodeTable, ∀ r' ∈ opcodeTable, r'.mnemonic = r.mnemonic → r' = r := by
  decide

/-- H_CMD of a word decoding rejects writes no register and records IllegalCommand (R41, R67). -/
theorem illegalCommand_of_decode_error {w : Word32} {e : DecodeError} (hd : decode w = .error e) (s : State)
    (rest : List HostAction) (hp : s.pending = .cmd w :: rest) :
    ∃ t, step s = .next t ∧ WritesNothing (popped s rest) t ∧ StatusError 4 s t :=
  ⟨_, step_of_illegal_command hp hd, writesNothing_raiseError _ _,
    (statusError_raiseError _ .illegalCommand).of_popped⟩

/-- Settles O4: a row accepts the words of its own command only, and no two rows have the same mnemonic. -/
theorem everyWordSelectsOneRowOrIsIllegal : Obligations.EveryWordSelectsOneRowOrIsIllegal := by
  intro w
  cases hd : decode w with
  | ok i =>
    obtain ⟨r, hr, hacc⟩ := exists_accepts_of_decode hd
    have hm := mnemonic_of_accepts hr hacc hd
    exact .inl ⟨i, r, rfl, hr, hacc, hm, fun r' hr' hacc' =>
      row_eq_of_mnemonic_eq r hr r' hr' ((mnemonic_of_accepts hr' hacc' hd).trans hm.symm)⟩
  | error e =>
    refine .inr ⟨fun r hr => Bool.eq_false_iff.2 fun hacc => ?_, illegalCommand_of_decode_error hd⟩
    obtain ⟨i, hi⟩ := exists_decode_of_accepts hr hacc
    cases hi.symm.trans hd

/-- Settles O5: R41's list is what no row of the table accepts. -/
theorem illegalWordsRaiseIllegalCommand : Obligations.IllegalWordsRaiseIllegalCommand := by
  intro w
  constructor
  · intro illegal
    cases hd : decode w with
    | ok i =>
      obtain ⟨r, hr, hacc⟩ := exists_accepts_of_decode hd
      exact absurd illegal ((accepts_iff hr w).1 hacc).1
    | error e => exact illegalCommand_of_decode_error hd
  · intro legal
    obtain ⟨r, hr, hacc⟩ := exists_accepts_of_legal legal
    exact exists_decode_of_accepts hr hacc

end Sys2Proof.Machine
end

section
/-! SUPPORT. The pseudo-instructions of 30_encoding.md R43 where they end in an error: a command that raises one, and the
frame and STATUS of a sequence that does. -/

namespace Sys2Proof.Machine

/-! ### Errors and the sentinel -/

/-- A command that ends with an error raises it. -/
theorem raises_of_commandEnd {i : Instr} {s : State} {e : CmdError} (h : commandEnd i s = .error e) :
    Raises i e.code.toNat s := by
  refine ⟨_, exec_eq_endCommand i s, ?_⟩
  rw [h, State.endCommand_error]
  exact ⟨writesNothing_raiseError s e, statusError_raiseError s e⟩

/-- HENC of a value outside the width (R46). -/
theorem raises_henc {rd ra : RegIdx} {w : Width} {s : State} (h : inWidth w (s.readX ra) = false) :
    Raises (.henc rd ra w) 1 s :=
  raises_of_commandEnd (e := .rangeError) (by simp [commandEnd, hencEnd, h])

/-- FLIPX of a value outside the width (R62). -/
theorem raises_flipx {rd ra : RegIdx} {w : Width} {s : State} (h : inWidth w (s.readX ra) = false) :
    Raises (.flipx rd ra w) 1 s :=
  raises_of_commandEnd (e := .rangeError) (by simp [commandEnd, flipxEnd, h])

theorem writesX_returnSentinel (s : State) (rd : RegIdx) : WritesX rd (-1) s (s.returnSentinel rd) where
  value := by rw [State.readX_returnSentinel, if_pos rfl]
  otherX j hj := by rw [State.readX_returnSentinel, if_neg hj.symm]
  strings _ := rfl
  marks r := (writesX_writeX s rd (v := sentinelValue) (by decide) (by decide)).marks r
  pending := rfl
  replies := rfl

theorem statusSentinel_returnSentinel (s : State) (rd : RegIdx) : StatusSentinel s (s.returnSentinel rd) where
  err := by simp
  inv := by simp
  serr := by simp
  sinv := by simp
  reserved := by simp

/-- XPACK that leaves INV 1 has returned the sentinel. -/
theorem xpack_returns_sentinel_of_inv {rd ra rb : RegIdx} {s p : State} (h : exec (.xpack rd ra rb) s = .next p)
    (hinv : statusInv p.status = true) : WritesX rd (-1) s p ∧ StatusSentinel s p := by
  rw [exec_eq_endCommand, commandEnd] at h
  cases h
  obtain ⟨raw, hend⟩ | hend := makeXfl_cases (s.readX ra) (s.readX rb)
  · simp [hend] at hinv
  · rw [hend]
    exact ⟨writesX_returnSentinel s rd, statusSentinel_returnSentinel s rd⟩

/-! ### A write followed by an error -/

theorem WritesX.trans_writesNothing {rd : RegIdx} {v : Int} {s t u : State} (h : WritesX rd v s t)
    (h' : WritesNothing t u) : WritesX rd v s u where
  value := (h'.integers rd).trans h.value
  otherX j hj := (h'.integers j).trans (h.otherX j hj)
  strings j := (h'.strings j).trans (h.strings j)
  marks r := by rw [h'.marks, h.marks]
  pending := h'.pending.trans h.pending
  replies := h'.replies.trans h.replies

/-- The error of the last command is what STATUS records (R67). -/
theorem StatusSuccess.trans_statusError {code : Nat} {s t u : State} (h : StatusSuccess s t)
    (h' : StatusError code t u) : StatusError code s u where
  err := h'.err
  inv := h'.inv
  serr := h'.serr
  sinv := h'.sinv.trans h.sinv
  reserved := h'.reserved.trans h.reserved

/-- Settles O40: FLIPX and HENC both reject the sentinel that XPACK leaves in Xt. -/
theorem xtowireOfAnOverflowLeavesTheStringUnchanged : Obligations.XtowireOfAnOverflowLeavesTheStringUnchanged := by
  intro sd xa xb xt s p hpack hinv
  obtain ⟨hwp, hsp⟩ := xpack_returns_sentinel_of_inv hpack hinv
  have outside {q : State} (hq : WritesX xt (-1) s q) : inWidth .w64 (q.readX xt) = false := by
    rw [hq.value]
    decide
  obtain ⟨q, hflip, hnq, hsq⟩ := raises_flipx (rd := xt) (outside hwp)
  have hwq := hwp.trans_writesNothing hnq
  obtain ⟨t, hhenc, hnt, hst⟩ := raises_henc (rd := sd) (outside hwq)
  refine ⟨t, ?_, hwq.trans_writesNothing hnt, hst.err, hst.inv, hst.serr, ?_⟩
  · rw [xtowire, execAll_cons hpack, execAll_cons hflip, execAll_cons hhenc, execAll]
  · rw [hst.sinv, hsq.sinv, hsp.sinv]

/-! ### The value HDEC reads -/

/-- The model's digit value is that of R45's table. -/
theorem hexval_eq_hexByteValue {b : Byte} (hb : IsHexByte b) : hexval? b = some (hexByteValue b) := by
  have upper : ∀ b ∈ upperHexBytes, hexval? b = some (hexByteValue b) := by decide
  have lower : ∀ b ∈ lowerHexBytes, hexval? b = some (hexByteValue b) := by decide
  exact hb.elim (upper b) (lower b)

theorem hexByteValue_lt {b : Byte} (hb : IsHexByte b) : hexByteValue b < 16 := by
  have upper : ∀ b ∈ upperHexBytes, hexByteValue b < 16 := by decide
  have lower : ∀ b ∈ lowerHexBytes, hexByteValue b < 16 := by decide
  exact hb.elim (upper b) (lower b)

theorem all_isHexDigit_of_isHexByte {txt : Str} (h : ∀ b ∈ txt, IsHexByte b) : txt.all isHexDigit = true :=
  List.all_eq_true.2 fun b hb => by rw [isHexDigit, hexval_eq_hexByteValue (h b hb), Option.isSome_some]

theorem hexSum_cons (b : Byte) (txt : Str) : hexSum (b :: txt) = hexByteValue b * 16 ^ txt.length + hexSum txt := by
  rw [hexSum, List.length_cons, Finset.sum_range_succ', Nat.add_comm, hexSum]
  congr 1
  refine Finset.sum_congr rfl fun k _ => ?_
  rw [List.getD_cons_succ, show txt.length + 1 - 1 - (k + 1) = txt.length - 1 - k by omega]

/-- The model's string value is the sum of R47. -/
theorem hexValue_eq_hexSum {txt : Str} (h : ∀ b ∈ txt, IsHexByte b) : hexValue txt = hexSum txt := by
  induction txt with
  | nil => rfl
  | cons b txt ih =>
    obtain ⟨hb, htxt⟩ := List.forall_mem_cons.1 h
    rw [hexValue, hexSum_cons, hexval_eq_hexByteValue hb, Option.getD_some, ih htxt]

theorem hexSum_lt {txt : Str} (h : ∀ b ∈ txt, IsHexByte b) : hexSum txt < 16 ^ txt.length := by
  induction txt with
  | nil => decide
  | cons b txt ih =>
    obtain ⟨hb, htxt⟩ := List.forall_mem_cons.1 h
    calc hexSum (b :: txt) < (hexByteValue b + 1) * 16 ^ txt.length := by rw [hexSum_cons]; linarith [ih htxt]
      _ ≤ 16 ^ (b :: txt).length := by
        rw [List.length_cons, Nat.pow_succ']
        exact Nat.mul_le_mul_right _ (hexByteValue_lt hb)

/-- HDEC of a string of hex digits that a register can hold (R47). -/
theorem succeedsX_hdec {rd ra : RegIdx} {w : Width} {s : State} (fits : (s.readS ra).length ≤ 56)
    (hne : s.readS ra ≠ []) (hhex : ∀ b ∈ s.readS ra, IsHexByte b) :
    SucceedsX (.hdec rd ra w) rd (hexSum (s.readS ra)) s := by
  have bound : hexSum (s.readS ra) < 2 ^ 224 :=
    (hexSum_lt hhex).trans_le ((Nat.pow_le_pow_right (by decide) fits).trans (by decide))
  refine succeedsX_of_commandEnd (i := .hdec rd ra w) ?_ (neg_two_pow_255_le_natCast _)
    (natCast_lt_two_pow_255 (by decide) bound)
  rw [commandEnd, hdecEnd, if_neg hne, if_pos (all_isHexDigit_of_isHexByte hhex), hexValue_eq_hexSum hhex]

theorem inWidth_natCast_eq_false {w : Width} {v : Nat} (hv : 2 ^ w.bits ≤ v) : inWidth w v = false :=
  decide_eq_false fun h => absurd h.2 (not_lt.2 (by exact_mod_cast hv))

/-- Settles O42: HDEC succeeds whatever the width, and FLIPX rejects the value it wrote. -/
theorem xfromwireOfALongValueRaisesRangeError : Obligations.XfromwireOfALongValueRaisesRangeError := by
  intro xd sa s fits hne hhex long
  obtain ⟨q, hhdec, hwq, hsq⟩ := succeedsX_hdec (rd := xd) (w := .w64) fits hne hhex
  have outside : inWidth .w64 (q.readX xd) = false := by
    rw [hwq.value]
    exact inWidth_natCast_eq_false long
  obtain ⟨t, hflip, hnt, hst⟩ := raises_flipx (rd := xd) outside
  refine ⟨t, ?_, hwq.trans_writesNothing hnt, hsq.trans_statusError hst⟩
  rw [xfromwire, execAll_cons hhdec, execAll_cons hflip, execAll]

end Sys2Proof.Machine
end

section
/-! SUPPORT. Command lines as text (30_encoding.md R42): a mnemonic and its operands, assembled piece by
piece. -/

namespace Sys2Proof.Machine

/-! ### The pieces of a line -/

/-- A character of a mnemonic or an operand: no blank, comma or semicolon. -/
def isWordChar (c : Char) : Bool := !isBlank c && c != ',' && c != ';'

/-- The operands of a line, a blank before each and a comma between them. -/
def operandLine : List (List Char) → List Char
  | [] => []
  | [p] => ' ' :: p
  | p :: q :: ps => ' ' :: p ++ ',' :: operandLine (q :: ps)

/-- The mnemonic of a command, in upper case (R42). -/
def mnemonicText : Instr → List Char
  | .henc _ _ _ => "HENC".toList
  | .hdec _ _ _ => "HDEC".toList
  | .xpack _ _ _ => "XPACK".toList
  | .xexp _ _ => "XEXP".toList
  | .xman _ _ => "XMAN".toList
  | .xneg _ _ => "XNEG".toList
  | .flipx _ _ _ => "FLIPX".toList
  | .flips _ _ => "FLIPS".toList

/-- The operands of a command as its line writes them, in upper case. -/
def operandTexts : Instr → List (List Char)
  | .henc d a w => [asmS d, asmX a, asmW w]
  | .hdec d a w => [asmX d, asmS a, asmW w]
  | .xpack d a b => [asmX d, asmX a, asmX b]
  | .xexp d a | .xman d a | .xneg d a => [asmX d, asmX a]
  | .flipx d a w => [asmX d, asmX a, asmW w]
  | .flips d a => [asmS d, asmS a]

/-- The operands of a command as the assembler reads them. -/
def operandValues : Instr → List AsmOperand
  | .henc d a w => [.s d, .x a, .num w.bits]
  | .hdec d a w => [.x d, .s a, .num w.bits]
  | .xpack d a b => [.x d, .x a, .x b]
  | .xexp d a | .xman d a | .xneg d a => [.x d, .x a]
  | .flipx d a w => [.x d, .x a, .num w.bits]
  | .flips d a => [.s d, .s a]

theorem asmText_eq (i : Instr) : asmText i = mnemonicText i ++ operandLine (operandTexts i) := by
  cases i <;> rfl

theorem assembleOps_operandValues (i : Instr) : assembleOps (mnemonicText i) (operandValues i) = some [i] := by
  cases i with
  | henc d a w | hdec d a w | flipx d a w => cases w <;> rfl
  | _ => rfl

theorem operandValues_ne_nil (i : Instr) : operandValues i ≠ [] := by
  cases i <;> exact List.cons_ne_nil _ _

/-- No mnemonic is the name of a directive (R44). -/
theorem mnemonicText_not_directive (i : Instr) :
    mnemonicText i ∉ [[], ".SETS".toList, ".SETX".toList, ".WORD".toList, ".CLRST".toList, ".RESET".toList] := by
  cases i <;> exact of_decide_eq_true rfl

/-- A text that the assembler reads as one operand. -/
structure OperandText (p : List Char) (op : AsmOperand) : Prop where
  nonempty : p ≠ []
  word : p.all isWordChar = true
  value : operandOf? p = some op

/-! ### Either case -/

section
variable {f : Char → Char} (hf : f = id ∨ f = Char.toLower)
include hf

theorem operandText_asmX (i : RegIdx) : OperandText ((asmX i).map f) (.x i) := by
  obtain rfl | rfl := hf <;> refine ⟨List.cons_ne_nil _ _, ?_, ?_⟩ <;> revert i <;> decide

theorem operandText_asmS (i : RegIdx) : OperandText ((asmS i).map f) (.s i) := by
  obtain rfl | rfl := hf <;> refine ⟨List.cons_ne_nil _ _, ?_, ?_⟩ <;> revert i <;> decide

theorem operandText_asmW (w : Width) : OperandText ((asmW w).map f) (.num w.bits) := by
  obtain rfl | rfl := hf <;> cases w <;> exact ⟨by decide, by decide, by decide⟩

theorem operandTexts_values (i : Instr) :
    List.Forall₂ OperandText ((operandTexts i).map (List.map f)) (operandValues i) := by
  cases i with
  | henc d a w => exact .cons (operandText_asmS hf d) (.cons (operandText_asmX hf a) (.cons (operandText_asmW hf w) .nil))
  | hdec d a w => exact .cons (operandText_asmX hf d) (.cons (operandText_asmS hf a) (.cons (operandText_asmW hf w) .nil))
  | xpack d a b =>
    exact .cons (operandText_asmX hf d) (.cons (operandText_asmX hf a) (.cons (operandText_asmX hf b) .nil))
  | xexp d a | xman d a | xneg d a => exact .cons (operandText_asmX hf d) (.cons (operandText_asmX hf a) .nil)
  | flipx d a w => exact .cons (operandText_asmX hf d) (.cons (operandText_asmX hf a) (.cons (operandText_asmW hf w) .nil))
  | flips d a => exact .cons (operandText_asmS hf d) (.cons (operandText_asmS hf a) .nil)

theorem map_operandLine (ps : List (List Char)) : (operandLine ps).map f = operandLine (ps.map (List.map f)) := by
  have hcomma : f ',' = ',' := by obtain rfl | rfl := hf <;> rfl
  have hblank : f ' ' = ' ' := by obtain rfl | rfl := hf <;> rfl
  induction ps using operandLine.induct with
  | case1 => rfl
  | case2 p => simp [operandLine, hblank]
  | case3 p q ps ih => simpa [operandLine, hblank, hcomma] using ih

theorem all_isWordChar_mnemonicText (i : Instr) : ((mnemonicText i).map f).all isWordChar = true := by
  obtain rfl | rfl := hf <;> cases i <;> rfl

theorem toUpper_mnemonicText (i : Instr) : ((mnemonicText i).map f).map Char.toUpper = mnemonicText i := by
  obtain rfl | rfl := hf <;> cases i <;> rfl

end

/-! ### Reading the operands -/

theorem isBlank_eq_false_of_isWordChar {c : Char} (h : isWordChar c = true) : isBlank c = false := by
  simp only [isWordChar, Bool.and_eq_true, Bool.not_eq_true'] at h
  exact h.1.1

theorem ne_comma_of_isWordChar {c : Char} (h : isWordChar c = true) : c ≠ ',' := by
  rintro rfl
  exact absurd h (by decide)

theorem ne_semicolon_of_isWordChar {c : Char} (h : isWordChar c = true) : c ≠ ';' := by
  rintro rfl
  exact absurd h (by decide)

theorem trimLeft_cons_of_isWordChar {c : Char} (h : isWordChar c = true) (l : List Char) :
    trimLeft (c :: l) = c :: l := by
  rw [trimLeft, List.dropWhile_cons_of_neg (by simp [isBlank_eq_false_of_isWordChar h])]

theorem trimLeft_of_all_isWordChar {p : List Char} (h : p.all isWordChar = true) : trimLeft p = p := by
  cases p with
  | nil => rfl
  | cons c p => exact trimLeft_cons_of_isWordChar (List.all_eq_true.1 h c List.mem_cons_self) p

theorem trim_blank_cons {p : List Char} (h : p.all isWordChar = true) : trim (' ' :: p) = p := by
  have blank : trimLeft (' ' :: p) = trimLeft p := rfl
  rw [trim, blank, trimLeft_of_all_isWordChar h, trimLeft_of_all_isWordChar (by rwa [List.all_reverse]),
    List.reverse_reverse]

theorem splitCommas_append {p : List Char} (h : ∀ c ∈ p, c ≠ ',') (l : List Char) :
    splitCommas (p ++ ',' :: l) = p :: splitCommas l := by
  induction p with
  | nil => rfl
  | cons c p ih =>
    obtain ⟨hc, hp⟩ := List.forall_mem_cons.1 h
    simp [splitCommas, hc, ih hp]

theorem splitCommas_eq_singleton {p : List Char} (h : ∀ c ∈ p, c ≠ ',') : splitCommas p = [p] := by
  induction p with
  | nil => rfl
  | cons c p ih =>
    obtain ⟨hc, hp⟩ := List.forall_mem_cons.1 h
    simp [splitCommas, hc, ih hp]

theorem ne_comma_of_mem_blank_cons {p : List Char} (h : p.all isWordChar = true) : ∀ c ∈ ' ' :: p, c ≠ ',' :=
  List.forall_mem_cons.2 ⟨by decide, fun c hc => ne_comma_of_isWordChar (List.all_eq_true.1 h c hc)⟩

theorem splitCommas_operandLine {ps : List (List Char)} (hne : ps ≠ []) (h : ∀ p ∈ ps, p.all isWordChar = true) :
    splitCommas (operandLine ps) = ps.map (' ' :: ·) := by
  induction ps using operandLine.induct with
  | case1 => exact absurd rfl hne
  | case2 p => exact splitCommas_eq_singleton (ne_comma_of_mem_blank_cons (h p List.mem_cons_self))
  | case3 p q ps ih =>
    obtain ⟨hp, hps⟩ := List.forall_mem_cons.1 h
    rw [operandLine, splitCommas_append (ne_comma_of_mem_blank_cons hp), ih (List.cons_ne_nil _ _) hps]
    rfl

theorem mapM_operandOf? {ps : List (List Char)} {ops : List AsmOperand} (h : List.Forall₂ OperandText ps ops) :
    (ps.map (' ' :: ·)).mapM (fun p => operandOf? (trim p)) = some ops := by
  induction h with
  | nil => rfl
  | cons hp _ ih => rw [List.map_cons, List.mapM_cons, trim_blank_cons hp.word, hp.value, ih]; rfl

theorem isBlank_of_trim_eq_nil {l : List Char} (h : trim l = []) : ∀ c ∈ l, isBlank c = true := by
  have kept : ∀ c ∈ trimLeft l, isBlank c = true := by
    simpa [trim, trimLeft, List.dropWhile_eq_nil_iff] using h
  intro c hc
  rw [← List.takeWhile_append_dropWhile (p := isBlank) (l := l), List.mem_append] at hc
  exact hc.elim (fun hc => List.mem_takeWhile_imp hc) (kept c)

/-- A line of operands begins with a blank and the first of them. -/
theorem exists_operandLine_cons (p : List Char) (ps : List (List Char)) :
    ∃ l, operandLine (p :: ps) = ' ' :: (p ++ l) := by
  cases ps with
  | nil => exact ⟨[], by rw [operandLine, List.append_nil]⟩
  | cons q ps => exact ⟨_, rfl⟩

theorem trim_operandLine_ne_nil {p : List Char} {ps : List (List Char)} (hne : p ≠ [])
    (h : p.all isWordChar = true) : trim (operandLine (p :: ps)) ≠ [] := by
  intro hnil
  obtain ⟨c, hc⟩ := List.exists_mem_of_ne_nil p hne
  obtain ⟨l, hl⟩ := exists_operandLine_cons p ps
  have blank : isBlank c = true := isBlank_of_trim_eq_nil hnil c (by simp [hl, hc])
  simp [isBlank_eq_false_of_isWordChar (List.all_eq_true.1 h c hc)] at blank

theorem all_isWordChar_of_operandText {ps : List (List Char)} {ops : List AsmOperand}
    (h : List.Forall₂ OperandText ps ops) : ∀ p ∈ ps, p.all isWordChar = true := by
  induction h with
  | nil => simp
  | cons hp _ ih => exact List.forall_mem_cons.2 ⟨hp.word, ih⟩

theorem operandsOf?_operandLine {ps : List (List Char)} {ops : List AsmOperand} (hne : ops ≠ [])
    (h : List.Forall₂ OperandText ps ops) : operandsOf? (operandLine ps) = some ops := by
  cases h with
  | nil => exact absurd rfl hne
  | cons hp hps =>
    have hsplit := splitCommas_operandLine (List.cons_ne_nil _ _) (all_isWordChar_of_operandText (hps.cons hp))
    rw [operandsOf?, if_neg (by simpa using trim_operandLine_ne_nil hp.nonempty hp.word), hsplit,
      mapM_operandOf? (hps.cons hp)]

theorem ne_semicolon_of_mem_operandLine {ps : List (List Char)} (h : ∀ p ∈ ps, p.all isWordChar = true) :
    ∀ c ∈ operandLine ps, c ≠ ';' := by
  have piece {p : List Char} (hp : p.all isWordChar = true) : ∀ c ∈ ' ' :: p, c ≠ ';' :=
    List.forall_mem_cons.2 ⟨by decide, fun c hc => ne_semicolon_of_isWordChar (List.all_eq_true.1 hp c hc)⟩
  induction ps using operandLine.induct with
  | case1 => simp [operandLine]
  | case2 p => exact piece (h p List.mem_cons_self)
  | case3 p q ps ih =>
    obtain ⟨hp, hps⟩ := List.forall_mem_cons.1 h
    exact List.forall_mem_append.2 ⟨piece hp, List.forall_mem_cons.2 ⟨by decide, ih hps⟩⟩

theorem stripComment_operandLine {ps : List (List Char)} (h : ∀ p ∈ ps, p.all isWordChar = true) :
    stripComment (operandLine ps) = operandLine ps :=
  List.takeWhile_eq_self_iff.2 fun c hc => by simpa using ne_semicolon_of_mem_operandLine h c hc

/-! ### The whole line -/

/-- The mnemonic of a line is what stands before its first operand. -/
theorem takeWhile_mnemonic {m : List Char} (hm : m.all isWordChar = true) (p : List Char) (ps : List (List Char)) :
    (m ++ operandLine (p :: ps)).takeWhile (fun c => !isBlank c && c != ';') = m := by
  obtain ⟨l, hl⟩ := exists_operandLine_cons p ps
  have inside : ∀ c ∈ m, (!isBlank c && c != ';') = true := fun c hc => by
    have word := List.all_eq_true.1 hm c hc
    simp [isBlank_eq_false_of_isWordChar word, ne_semicolon_of_isWordChar word]
  rw [hl, List.takeWhile_append_of_pos inside, List.takeWhile_cons_of_neg (by decide), List.append_nil]

/-- A mnemonic in either case and the operands of its command are assembled as that command. -/
theorem assembleLine_command {m : List Char} {ps : List (List Char)} {i : Instr} (hm : m.all isWordChar = true)
    (hupper : m.map Char.toUpper = mnemonicText i) (hops : List.Forall₂ OperandText ps (operandValues i)) :
    assembleLine (m ++ operandLine ps) = some [.cmd (encode i)] := by
  obtain ⟨noMnemonic, noSets, noSetx, noWord, noClrst, noReset⟩ :
      mnemonicText i ≠ [] ∧ mnemonicText i ≠ ".SETS".toList ∧ mnemonicText i ≠ ".SETX".toList ∧
        mnemonicText i ≠ ".WORD".toList ∧ mnemonicText i ≠ ".CLRST".toList ∧ mnemonicText i ≠ ".RESET".toList := by
    simpa only [List.mem_cons, not_or, List.not_mem_nil, not_false_iff, and_true] using mnemonicText_not_directive i
  have hline : trimLeft (m ++ operandLine ps) = m ++ operandLine ps := by
    cases m with
    | nil => exact absurd hupper.symm noMnemonic
    | cons c m => exact trimLeft_cons_of_isWordChar (List.all_eq_true.1 hm c List.mem_cons_self) _
  have hhead : (m ++ operandLine ps).takeWhile (fun c => !isBlank c && c != ';') = m := by
    cases ps with
    | nil => exact absurd (List.forall₂_nil_left_iff.1 hops) (operandValues_ne_nil i)
    | cons p ps => exact takeWhile_mnemonic hm p ps
  have hrest : (m ++ operandLine ps).drop (mnemonicText i).length = operandLine ps := by
    rw [← hupper, List.length_map, List.drop_left]
  have hread : operandsOf? (operandLine ps) = some (operandValues i) :=
    operandsOf?_operandLine (operandValues_ne_nil i) hops
  simp only [assembleLine, hline, hhead, hupper, hrest, stripComment_operandLine (all_isWordChar_of_operandText hops),
    hread, noMnemonic, noSets, noSetx, noWord, noClrst, noReset, if_false]
  rw [Option.bind_eq_bind, Option.bind_some, assembleOps_operandValues]
  rfl

/-- Settles O6: case does not change how the pieces of the line are read. -/
theorem assemblyLinesEncodeTheirCommand : Obligations.AssemblyLinesEncodeTheirCommand := by
  have line (i : Instr) {f : Char → Char} (hf : f = id ∨ f = Char.toLower) :
      assembleLine ((asmText i).map f) = some [.cmd (encode i)] := by
    rw [asmText_eq, List.map_append, map_operandLine hf]
    exact assembleLine_command (all_isWordChar_mnemonicText hf i) (toUpper_mnemonicText hf i) (operandTexts_values hf i)
  intro i
  have upper := line i (.inl rfl)
  rw [List.map_id] at upper
  exact ⟨upper, line i (.inr rfl)⟩

end Sys2Proof.Machine
end

section
/-! SUPPORT. The hex transcoder of 40_hex_transcoder.md: the range of HENC's operand, the bytes HDEC accepts, the two
round trips between values and texts, and HENC beside the byte order of 43_byte_order.md. -/

namespace Sys2Proof.Machine

/-! ### The operand of HENC -/

theorem inWidth_eq_false_iff {w : Width} {v : Int} : inWidth w v = false ↔ v < 0 ∨ 2 ^ w.bits ≤ v := by
  rw [inWidth, decide_eq_false_iff_not, not_and_or, not_le, not_lt]

/-- An operand of the width is a natural number of the width. -/
theorem exists_natCast_of_inWidth {w : Width} {v : Int} (lo : 0 ≤ v) (hi : v < 2 ^ w.bits) :
    ∃ n : Nat, v = n ∧ n < 2 ^ w.bits := by
  lift v to Nat using lo
  exact ⟨v, rfl, by exact_mod_cast hi⟩

/-- Settles O17: HENC succeeds inside the width and raises outside it. -/
theorem hencWritesHexOrRaisesRangeError : Obligations.HencWritesHexOrRaisesRangeError := by
  refine fun rd ra w s => ⟨fun ⟨lo, hi⟩ => ?_, fun outside => raises_henc (inWidth_eq_false_iff.2 outside)⟩
  obtain ⟨n, hread, hn⟩ := exists_natCast_of_inWidth lo hi
  rw [hread, Int.toNat_natCast, ← hexString_eq_hexText]
  exact succeedsS_henc hread hn

/-! ### The string of HDEC -/

/-- The model's hex digits are the characters of R45's table. -/
theorem isHexDigit_eq_decide_isHexByte : ∀ b : Byte, isHexDigit b = decide (IsHexByte b) := by decide

/-- HDEC of a string with no digit or with another byte (R47). -/
theorem raises_hdec {rd ra : RegIdx} {w : Width} {s : State}
    (h : s.readS ra = [] ∨ ∃ b ∈ s.readS ra, ¬IsHexByte b) : Raises (.hdec rd ra w) 2 s := by
  refine raises_of_commandEnd (e := .formatError) ?_
  obtain ⟨hne, hall, -⟩ | ⟨-, hend⟩ := hdecEnd_cases (s.readS ra)
  · obtain hnil | ⟨b, hb, hnot⟩ := h
    · exact absurd hnil hne
    · have hhex := List.all_eq_true.1 hall b hb
      rw [isHexDigit_eq_decide_isHexByte, decide_eq_true_iff] at hhex
      exact absurd hhex hnot
  · exact hend

/-- Settles O18, both halves rules of HDEC. -/
theorem hdecWritesValueOrRaisesFormatError : Obligations.HdecWritesValueOrRaisesFormatError :=
  fun _ _ _ _ fits => ⟨fun ⟨hne, hhex⟩ => succeedsX_hdec fits hne hhex, raises_hdec⟩

/-! ### The round trips -/

theorem execAll_pair {i j : Instr} {s t u : State} (h : exec i s = .next t) (h' : exec j t = .next u) :
    execAll [i, j] s = .next u := by
  rw [execAll_cons h, execAll_cons h', execAll]

/-- Settles O19: the digits HENC writes are a text HDEC reads back. -/
theorem hencThenHdecGivesTheValueBack : Obligations.HencThenHdecGivesTheValueBack := by
  intro sd xa xe w s lo hi
  obtain ⟨n, hread, hn⟩ := exists_natCast_of_inWidth lo hi
  obtain ⟨q, hhenc, hwq, hsq⟩ := succeedsS_henc (rd := sd) hread hn
  obtain ⟨t, hhdec, hwt, hst⟩ := succeedsX_hdec_hexString (rd := xe) hwq.value hn
  exact ⟨t, execAll_pair hhenc hhdec, hwt.value.trans hread.symm, hsq.trans hst⟩

theorem hexString_zero (n : Nat) : hexString n 0 = List.replicate n 0x30 := by
  simp [hexString, hexchar, List.map_const']

/-- More digits than a value needs are zeros in front (R46). -/
theorem replicate_append_hexString {n v : Nat} (hv : v < 16 ^ n) (m : Nat) :
    List.replicate m 0x30 ++ hexString n v = hexString (m + n) v := by
  have split := hexString_mul_pow_add hv m 0
  rw [Nat.zero_mul, Nat.zero_add, hexString_zero] at split
  exact split.symm

/-- The upper-case form of a digit character is the character of its value (R45). -/
theorem hexString_hexByteValue {b : Byte} (hb : IsHexByte b) : hexString 1 (hexByteValue b) = [upperHex b] := by
  have upper : ∀ b ∈ upperHexBytes, hexString 1 (hexByteValue b) = [upperHex b] := by decide
  have lower : ∀ b ∈ lowerHexBytes, hexString 1 (hexByteValue b) = [upperHex b] := by decide
  exact hb.elim (upper b) (lower b)

/-- The digits of a text's value, as many as the text has, are the text in upper case. -/
theorem hexString_hexSum {txt : Str} (h : ∀ b ∈ txt, IsHexByte b) :
    hexString txt.length (hexSum txt) = txt.map upperHex := by
  induction txt with
  | nil => rfl
  | cons b txt ih =>
    obtain ⟨hb, htxt⟩ := List.forall_mem_cons.1 h
    rw [hexSum_cons, List.length_cons, Nat.add_comm txt.length, hexString_mul_pow_add (hexSum_lt htxt),
      hexString_hexByteValue hb, ih htxt, List.map_cons, List.singleton_append]

/-- Settles O20: padded to a common length, the two texts are the digits of one value. -/
theorem hdecThenHencGivesCanonicalText : Obligations.HdecThenHencGivesCanonicalText := by
  intro xd sa se w s fits hne hhex hlt
  obtain ⟨q, hhdec, hwq, -⟩ := succeedsX_hdec (rd := xd) (w := w) fits hne hhex
  obtain ⟨t, hhenc, hwt, -⟩ := succeedsS_henc (rd := se) hwq.value hlt
  refine ⟨t, execAll_pair hhdec hhenc, ?_, ?_⟩
  · rw [hwt.value, hexString_length, Width.digits]
  · have hdigits : hexSum (s.readS sa) < 16 ^ w.digits := pow_digits_eq_pow_bits w ▸ hlt
    calc List.replicate (s.readS sa).length 0x30 ++ t.readS se
        = hexString ((s.readS sa).length + w.digits) (hexSum (s.readS sa)) := by
          rw [hwt.value, replicate_append_hexString hdigits]
      _ = List.replicate w.digits 0x30 ++ (s.readS sa).map upperHex := by
          rw [Nat.add_comm, ← replicate_append_hexString (hexSum_lt hhex), hexString_hexSum hhex]

/-! ### HENC and the two flips -/

theorem digits_eq_two_mul_bytes (w : Width) : w.digits = 2 * w.bytes := by
  cases w <;> decide

/-- The hex text of a value is that of its bytes. -/
theorem hexString_eq_flatMap_bytesBE {n v : Nat} (hv : v < 256 ^ n) :
    hexString (2 * n) v = (bytesBE n v).flatMap fun b => hexString 2 b.toNat := by
  rw [← hexString_fromBytesBE, bytesBE_length, fromBytesBE_bytesBE, Nat.mod_eq_of_lt hv]

theorem bytesBE_flipBytes (n v : Nat) : bytesBE n (flipBytes n v) = (bytesBE n v).reverse := by
  simpa [flipBytes] using bytesBE_fromBytesBE (bytesBE n v).reverse

/-- The groups `flips` reverses are the bytes of a text (R61). -/
theorem flipGroups_flatMap (l : List Byte) :
    flipGroups (l.flatMap fun b => hexString 2 b.toNat) = l.reverse.flatMap fun b => hexString 2 b.toNat := by
  induction l with
  | nil => rfl
  | cons b l ih =>
    have group : hexString 2 b.toNat = [hexchar (b.toNat / 16 ^ 1 % 16), hexchar (b.toNat / 16 ^ 0 % 16)] := by
      rw [hexString_succ, hexString_succ]
      rfl
    rw [List.flatMap_cons, List.reverse_cons, List.flatMap_append, List.flatMap_singleton, ← ih, group]
    rfl

/-- The two flips agree on the hex text (43_byte_order.md section 4). -/
theorem hexString_flipBytes_eq_flipGroups {n v : Nat} (hv : v < 256 ^ n) :
    hexString (2 * n) (flipBytes n v) = flipGroups (hexString (2 * n) v) := by
  rw [hexString_eq_flatMap_bytesBE (flipBytes_lt n v), bytesBE_flipBytes, hexString_eq_flatMap_bytesBE hv,
    flipGroups_flatMap]

/-- FLIPS of a text that HENC writes (R46, R63). -/
theorem succeedsS_flips_hexString {rd ra : RegIdx} {w : Width} {v : Nat} {s : State}
    (hread : s.readS ra = hexString w.digits v) :
    SucceedsS (.flips rd ra) rd (flipGroups (hexString w.digits v)) s := by
  refine succeedsS_of_commandEnd (i := .flips rd ra) ?_
  have even : (hexString w.digits v).length % 2 = 0 := by
    rw [hexString_length, digits_eq_two_mul_bytes, Nat.mul_mod_right]
  rw [commandEnd, hread, flipsEnd, if_neg (not_not.2 even), if_pos (all_isHexDigit_hexString _ v)]

/-- Settles O38: HENC takes the bytes' order to the groups' order. -/
theorem flipThenEncodeIsEncodeThenFlip : Obligations.FlipThenEncodeIsEncodeThenFlip := by
  intro xt xa sd w s lo hi
  obtain ⟨n, hread, hn⟩ := exists_natCast_of_inWidth lo hi
  have hbytes : n < 256 ^ w.bytes := pow_bytes_eq_pow_bits w ▸ hn
  have hflipped : flipBytes w.bytes n < 2 ^ w.bits := pow_bytes_eq_pow_bits w ▸ flipBytes_lt w.bytes n
  obtain ⟨p, hflipx, hwp, hsp⟩ := succeedsX_flipx (rd := xt) hread hn
  obtain ⟨t, hhenc, hwt, hst⟩ := succeedsS_henc (rd := sd) hwp.value hflipped
  obtain ⟨q, hhenc', hwq, hsq⟩ := succeedsS_henc (rd := sd) hread hn
  obtain ⟨u, hflips, hwu, hsu⟩ := succeedsS_flips_hexString (rd := sd) hwq.value
  refine ⟨t, u, execAll_pair hflipx hhenc, execAll_pair hhenc' hflips, ?_, hsp.trans hst, hsq.trans hsu⟩
  rw [hwt.value, hwu.value, digits_eq_two_mul_bytes, hexString_flipBytes_eq_flipGroups hbytes]

/-! ### The sentinel as an operand -/

/-- A decode command whose operand lies outside the decode domain (R54). -/
theorem raises_of_decodeEnd {i : Instr} {s : State} {raw : Int} (field : Nat → Int)
    (hend : commandEnd i s = decodeEnd field raw) (h : inXflDomain raw = false) : Raises i 3 s :=
  raises_of_commandEnd (e := .invalidXflError) (by simp [hend, decodeEnd, h])

/-- Settles O32: -1 lies outside every width and outside the decode domain. -/
theorem sentinelIsRejectedByHencFlipxAndDecoders : Obligations.SentinelIsRejectedByHencFlipxAndDecoders := by
  intro rd ra w s hread
  have width : inWidth w (s.readX ra) = false := inWidth_eq_false_iff.2 (.inl (by rw [hread]; decide))
  have domain : inXflDomain (s.readX ra) = false := by rw [hread]; decide
  exact ⟨raises_henc width, raises_flipx width, raises_of_decodeEnd xflExp rfl domain,
    raises_of_decodeEnd (fun raw => xflMan raw) rfl domain, raises_of_decodeEnd (fun raw => xflNeg raw) rfl domain⟩

end Sys2Proof.Machine
end

section
/-! SUPPORT. Normalization by the number of decimal digits (41_xfl_pack.md R50): what multiplying and dividing by ten does
to the closed form, and that the two loops of `norm` compute it. -/

namespace Sys2Proof.Machine

/-! ### The number of decimal digits -/

theorem digitCount_le_iff {a k : Nat} : digitCount a ≤ k ↔ a < 10 ^ k := Nat.digits_length_le_iff (by decide) a

theorem lt_digitCount_iff {a k : Nat} : k < digitCount a ↔ 10 ^ k ≤ a := Nat.lt_digits_length_iff (by decide) a

theorem digitCount_mul_pow {a : Nat} (ha : 0 < a) (k : Nat) : digitCount (a * 10 ^ k) = digitCount a + k := by
  rw [digitCount, Nat.mul_comm, Nat.digits_base_pow_mul (by decide) ha, List.length_append, List.length_replicate,
    Nat.add_comm, digitCount]

theorem digitCount_div_pow (a k : Nat) : digitCount (a / 10 ^ k) = digitCount a - k :=
  eq_of_forall_lt_iff fun j => by
    rw [lt_digitCount_iff, Nat.le_div_iff_mul_le (Nat.pow_pos (by decide)), ← Nat.pow_add, ← lt_digitCount_iff,
      Nat.lt_sub_iff_add_lt]

theorem digitCount_mul_ten {a : Nat} (ha : 0 < a) : digitCount (a * 10) = digitCount a + 1 := digitCount_mul_pow ha 1

theorem digitCount_div_ten (a : Nat) : digitCount (a / 10) = digitCount a - 1 := digitCount_div_pow a 1

/-- The canonical mantissas are the numbers of 16 digits (R8). -/
theorem digitCount_eq_sixteen_iff {a : Nat} : digitCount a = 16 ↔ 10 ^ 15 ≤ a ∧ a ≤ 10 ^ 16 - 1 := by
  rw [← lt_digitCount_iff, ← Nat.lt_iff_le_pred (by decide), ← digitCount_le_iff]
  omega

/-! ### The closed form -/

theorem normByDigits_of_long {a : Nat} (h : 16 ≤ digitCount a) (e : Int) :
    normByDigits a e = (a / 10 ^ (digitCount a - 16), e + (digitCount a - 16 : Nat)) := by
  obtain long | canonical := h.lt_or_eq
  · rw [normByDigits, if_pos long]
  · simp [normByDigits, ← canonical]

theorem normByDigits_of_short {a : Nat} (h : digitCount a ≤ 16) (e : Int) :
    normByDigits a e = (a * 10 ^ (16 - digitCount a), e - (16 - digitCount a : Nat)) := by
  rw [normByDigits, if_neg (Nat.not_lt.2 h)]

theorem normByDigits_of_canonical {a : Nat} (h : digitCount a = 16) (e : Int) : normByDigits a e = (a, e) := by
  simp [normByDigits_of_short h.le, h]

/-- Ten times the magnitude is one more in the exponent: the closed form depends on the value only (section 4). -/
theorem normByDigits_mul_ten {a : Nat} (ha : 0 < a) (e : Int) : normByDigits (a * 10) e = normByDigits a (e + 1) := by
  have count := digitCount_mul_ten ha
  obtain short | long := lt_or_ge (digitCount a) 16
  · rw [normByDigits_of_short (by omega), normByDigits_of_short short.le, count,
      show 16 - digitCount a = 16 - (digitCount a + 1) + 1 by omega, Nat.pow_succ', Nat.mul_assoc]
    ext1
    · rfl
    · push_cast
      ring
  · rw [normByDigits_of_long (by omega), normByDigits_of_long long, count, Nat.succ_sub long, Nat.pow_succ,
      Nat.mul_div_mul_right _ _ (by decide)]
    ext1
    · rfl
    · push_cast
      ring

/-- Above the canonical range, the last digit is one that normalization drops. -/
theorem normByDigits_div_ten {a : Nat} (h : 16 < digitCount a) (e : Int) :
    normByDigits a e = normByDigits (a / 10) (e + 1) := by
  have count := digitCount_div_ten a
  rw [normByDigits_of_long h.le, normByDigits_of_long (by omega), Nat.div_div_eq_div_mul, ← Nat.pow_succ',
    show digitCount a - 16 = digitCount (a / 10) - 16 + 1 by omega]
  ext1
  · rfl
  · push_cast
    ring

/-- The closed form has a canonical mantissa. -/
theorem digitCount_normByDigits {a : Nat} (ha : 0 < a) (e : Int) : digitCount (normByDigits a e).1 = 16 := by
  obtain short | long := le_total (digitCount a) 16
  · rw [normByDigits_of_short short, digitCount_mul_pow ha, Nat.add_sub_of_le short]
  · rw [normByDigits_of_long long, digitCount_div_pow, Nat.sub_sub_self long]

/-! ### The two loops -/

/-- The guard of the second loop. -/
theorem lt_xflMmin_iff {a : Nat} : a < xflMmin ↔ digitCount a ≤ 15 := by
  rw [digitCount_le_iff, xflMmin]
  norm_num

/-- The guard of the first loop. -/
theorem gt_xflMmax_iff {a : Nat} : a > xflMmax ↔ 16 < digitCount a := by
  rw [lt_digitCount_iff, xflMmax]
  omega

/-- The second loop makes up for the digits missing from 16. -/
theorem multiplyUp_eq_normByDigits {fuel a : Nat} (ha : 0 < a) (short : digitCount a ≤ 16)
    (enough : 16 ≤ digitCount a + fuel) (e : Int) : multiplyUp fuel a e = normByDigits a e := by
  induction fuel generalizing a e with
  | zero => rw [multiplyUp, normByDigits_of_canonical (by omega)]
  | succ fuel ih =>
    rw [multiplyUp]
    split_ifs with hlow
    · have below := lt_xflMmin_iff.1 hlow.1
      have count := digitCount_mul_ten ha
      rw [ih (by omega) (by omega) (by omega), normByDigits_mul_ten ha, sub_add_cancel]
    · have above : ¬digitCount a ≤ 15 := fun h => hlow ⟨lt_xflMmin_iff.2 h, ha.ne'⟩
      rw [normByDigits_of_canonical (by omega)]

/-- The first loop drops the digits above 16; what it leaves is for the second. -/
theorem multiplyUp_divideDown_eq_normByDigits {fuel a : Nat} (ha : 0 < a) (enough : digitCount a ≤ 16 + fuel)
    (e : Int) : multiplyUp 15 (divideDown fuel a e).1 (divideDown fuel a e).2 = normByDigits a e := by
  have some_digit : 0 < digitCount a := lt_digitCount_iff.2 ha
  induction fuel generalizing a e with
  | zero => exact multiplyUp_eq_normByDigits ha enough (by omega) e
  | succ fuel ih =>
    rw [divideDown]
    split_ifs with hhigh
    · have long := gt_xflMmax_iff.1 hhigh
      have count := digitCount_div_ten a
      rw [normByDigits_div_ten long]
      exact ih (lt_digitCount_iff.1 (by omega : 0 < _)) (by omega) _ (by omega)
    · exact multiplyUp_eq_normByDigits ha (not_lt.1 (mt gt_xflMmax_iff.2 hhigh)) (by omega) e

/-- The round limits of `norm` never end a loop. -/
theorem norm_eq_normByDigits {a : Nat} (ha : 0 < a) (e : Int) : norm a e = normByDigits a e :=
  multiplyUp_divideDown_eq_normByDigits ha
    (Nat.le_add_left_of_le (digitCount_le_iff.2 (Nat.lt_pow_self (by decide)))) e

/-- Settles O21: the loops' equations are the closed form's, digit by digit. -/
theorem normFollowsItsLoopsAndDigits : Obligations.NormFollowsItsLoopsAndDigits := by
  intro a e ha
  refine ⟨fun high => ?_, fun low => ?_, fun canonical => ?_, norm_eq_normByDigits ha e, ?_⟩
  · rw [norm_eq_normByDigits ha, norm_eq_normByDigits (by omega : 0 < a / 10),
      normByDigits_div_ten (lt_digitCount_iff.2 (by omega))]
  · rw [norm_eq_normByDigits ha, norm_eq_normByDigits (by omega : 0 < a * 10), normByDigits_mul_ten ha,
      sub_add_cancel]
  · rw [norm_eq_normByDigits ha, normByDigits_of_canonical (digitCount_eq_sixteen_iff.2 canonical)]
  · rw [norm_eq_normByDigits ha]
    exact digitCount_eq_sixteen_iff.1 (digitCount_normByDigits ha e)

end Sys2Proof.Machine
end

section
/-! SUPPORT. XPACK (41_xfl_pack.md R48 to R53): the word it packs and the word's fields (42_xfl_unpack.md R56), the three
ways it ends, and what it makes of operand pairs of equal value. -/

namespace Sys2Proof.Machine

/-! ### The packed word -/

/-- An exponent and a mantissa that a non-zero canonical word can hold (R48). -/
structure Packable (en : Int) (mn : Nat) : Prop where
  exp_lo : -96 ≤ en
  exp_hi : en ≤ 80
  man_lo : 10 ^ 15 ≤ mn
  man_hi : mn ≤ 10 ^ 16 - 1

/-- The fields of R52 do not overlap, so that the word is their sum. -/
theorem packXfl_eq_add {en : Int} {mn : Nat} (h : Packable en mn) (pos : Bool) :
    packXfl pos en mn = (if pos then 1 else 0) * 2 ^ 62 + (en + 97).toNat * 2 ^ 54 + mn := by
  have ⟨exp_lo, exp_hi, man_lo, man_hi⟩ := h
  have man_lt : mn < 2 ^ 54 := by omega
  have exp_lt : (en + xflBias).toNat < 2 ^ 8 := by rw [xflBias]; omega
  rw [packXfl, Nat.or_assoc, ← Nat.shiftLeft_add_eq_or_of_lt man_lt,
    ← Nat.shiftLeft_add_eq_or_of_lt (by rw [Nat.shiftLeft_eq]; omega), Nat.shiftLeft_eq, Nat.shiftLeft_eq, xflBias,
    Nat.add_assoc]

/-- The sum of R52, as the integer the register holds. -/
theorem natCast_packXfl {en : Int} {mn : Nat} (h : Packable en mn) (pos : Bool) :
    (packXfl pos en mn : Int) = wordOf pos en mn := by
  have exp_nonneg : 0 ≤ en + 97 := by linarith [h.exp_lo]
  rw [packXfl_eq_add h]
  push_cast
  rw [Int.toNat_of_nonneg exp_nonneg, wordOf]
  cases pos <;> simp

theorem packXfl_lt_of_packable {en : Int} {mn : Nat} (h : Packable en mn) (pos : Bool) : packXfl pos en mn < 2 ^ 63 :=
  packXfl_lt h.exp_lo h.exp_hi h.man_hi pos

theorem packXfl_ne_zero {en : Int} {mn : Nat} (h : Packable en mn) (pos : Bool) : packXfl pos en mn ≠ 0 := by
  have man_lo := h.man_lo
  rw [packXfl_eq_add h]
  omega

theorem xflExp_packXfl {en : Int} {mn : Nat} (h : Packable en mn) (pos : Bool) : xflExp (packXfl pos en mn) = en := by
  have ⟨exp_lo, exp_hi, man_lo, man_hi⟩ := h
  rw [xflExp, if_neg (packXfl_ne_zero h pos), packXfl_eq_add h, bitField, xflBias]
  split <;> omega

theorem xflMan_packXfl {en : Int} {mn : Nat} (h : Packable en mn) (pos : Bool) : xflMan (packXfl pos en mn) = mn := by
  have ⟨exp_lo, exp_hi, man_lo, man_hi⟩ := h
  rw [xflMan, packXfl_eq_add h, bitField]
  omega

theorem xflNeg_packXfl {en : Int} {mn : Nat} (h : Packable en mn) (pos : Bool) :
    xflNeg (packXfl pos en mn) = if pos then 0 else 1 := by
  have ⟨exp_lo, exp_hi, man_lo, man_hi⟩ := h
  rw [xflNeg, if_neg (packXfl_ne_zero h pos), packXfl_eq_add h, bitField]
  cases pos
  · exact if_pos (by rw [if_neg Bool.false_ne_true]; omega)
  · exact if_neg (by rw [if_pos rfl]; omega)

/-- The canonical words are the packed words of the pairs they can hold. -/
theorem canonicalWord_natCast_iff {raw : Nat} :
    CanonicalWord raw ↔ ∃ pos en mn, Packable en mn ∧ raw = packXfl pos en mn := by
  constructor
  · rintro ⟨pos, en, mn, exp_lo, exp_hi, man_lo, man_hi, hraw⟩
    have h : Packable en mn := ⟨exp_lo, exp_hi, man_lo, man_hi⟩
    exact ⟨pos, en, mn, h, by exact_mod_cast hraw.trans (natCast_packXfl h pos).symm⟩
  · rintro ⟨pos, en, mn, h, rfl⟩
    exact ⟨pos, en, mn, h.exp_lo, h.exp_hi, h.man_lo, h.man_hi, natCast_packXfl h pos⟩

/-! ### How XPACK ends -/

theorem makeXfl_zero (e : Int) : makeXfl e 0 = .doneX 0 := if_pos rfl

/-- The normalized exponent alone decides between the word and the sentinel (R51); XTV's step 4 never fires (R50). -/
theorem makeXfl_of_ne_zero {m : Int} (hm : m ≠ 0) (e : Int) :
    makeXfl e m =
      if (normByDigits m.natAbs e).2 < -96 ∨ 80 < (normByDigits m.natAbs e).2 then .sentinel
      else .doneX (packXfl (decide (0 < m)) (normByDigits m.natAbs e).2 (normByDigits m.natAbs e).1) := by
  have positive : 0 < m.natAbs := Int.natAbs_pos.2 hm
  have man_lo := (digitCount_eq_sixteen_iff.1 (digitCount_normByDigits positive e)).1
  simp only [makeXfl, if_neg hm, norm_eq_normByDigits positive, xflEmin, xflEmax]
  rw [if_neg (by omega)]

/-- What normalization leaves is packable when the exponent passes the clip of R51. -/
theorem packable_normByDigits {a : Nat} {e : Int} (ha : 0 < a) (lo : -96 ≤ (normByDigits a e).2)
    (hi : (normByDigits a e).2 ≤ 80) : Packable (normByDigits a e).2 (normByDigits a e).1 :=
  have ⟨man_lo, man_hi⟩ := digitCount_eq_sixteen_iff.1 (digitCount_normByDigits ha e)
  ⟨lo, hi, man_lo, man_hi⟩

/-- A command that ends with the sentinel returns it. -/
theorem returnsSentinel_of_commandEnd {i : Instr} {s : State} (h : commandEnd i s = .sentinel) :
    ReturnsSentinel i (destinationIndex i) s := by
  refine ⟨_, exec_eq_endCommand i s, ?_⟩
  rw [h, State.endCommand_sentinel]
  exact ⟨writesX_returnSentinel s _, statusSentinel_returnSentinel s _⟩

theorem SucceedsX.of_exec {i : Instr} {rd : RegIdx} {v : Int} {s t : State} (h : SucceedsX i rd v s)
    (hexec : exec i s = .next t) : WritesX rd v s t ∧ StatusSuccess s t := by
  obtain ⟨u, hu, effect⟩ := h
  cases hu.symm.trans hexec
  exact effect

/-- XPACK of a zero mantissa (R49). -/
theorem succeedsX_xpack_zero (rd ra : RegIdx) {rb : RegIdx} {s : State} (hm : s.readX rb = 0) :
    SucceedsX (.xpack rd ra rb) rd 0 s :=
  succeedsX_of_commandEnd (i := .xpack rd ra rb) (by rw [commandEnd, hm, makeXfl_zero]) (by decide) (by decide)

/-- XPACK of a non-zero mantissa whose normalized exponent passes the clip (R52). -/
theorem succeedsX_xpack (rd : RegIdx) {ra rb : RegIdx} {s : State} (hm : s.readX rb ≠ 0) {n : Nat × Int}
    (hn : normByDigits (s.readX rb).natAbs (s.readX ra) = n) (lo : -96 ≤ n.2) (hi : n.2 ≤ 80) :
    SucceedsX (.xpack rd ra rb) rd (packXfl (decide (0 < s.readX rb)) n.2 n.1) s := by
  subst hn
  have packable := packable_normByDigits (Int.natAbs_pos.2 hm) lo hi
  refine succeedsX_of_commandEnd (i := .xpack rd ra rb) ?_ (neg_two_pow_255_le_natCast _)
    (natCast_lt_two_pow_255 (by decide) (packXfl_lt_of_packable packable _))
  rw [commandEnd, makeXfl_of_ne_zero hm, if_neg (by omega)]

/-- XPACK of a non-zero mantissa whose normalized exponent does not pass the clip (R51). -/
theorem returnsSentinel_xpack (rd : RegIdx) {ra rb : RegIdx} {s : State} (hm : s.readX rb ≠ 0)
    (outside : (normByDigits (s.readX rb).natAbs (s.readX ra)).2 < -96 ∨
      80 < (normByDigits (s.readX rb).natAbs (s.readX ra)).2) : ReturnsSentinel (.xpack rd ra rb) rd s :=
  returnsSentinel_of_commandEnd (i := .xpack rd ra rb) (by rw [commandEnd, makeXfl_of_ne_zero hm, if_pos outside])

/-- XPACK of a non-zero mantissa that leaves INV 0 has packed the normalized pair. -/
theorem xpack_packs_of_not_inv {rd ra rb : RegIdx} {s t : State} (hm : s.readX rb ≠ 0)
    (hexec : exec (.xpack rd ra rb) s = .next t) (hinv : statusInv t.status = false) {n : Nat × Int}
    (hn : normByDigits (s.readX rb).natAbs (s.readX ra) = n) :
    Packable n.2 n.1 ∧ t.readX rd = packXfl (decide (0 < s.readX rb)) n.2 n.1 := by
  by_cases outside : n.2 < -96 ∨ 80 < n.2
  · obtain ⟨u, hu, -, hsentinel⟩ := returnsSentinel_xpack rd hm (hn ▸ outside)
    cases hu.symm.trans hexec
    exact absurd hsentinel.inv (by simp [hinv])
  · obtain ⟨lo, hi⟩ : -96 ≤ n.2 ∧ n.2 ≤ 80 := by omega
    obtain ⟨hw, -⟩ := (succeedsX_xpack rd hm hn lo hi).of_exec hexec
    exact ⟨hn ▸ packable_normByDigits (Int.natAbs_pos.2 hm) (hn ▸ lo) (hn ▸ hi), hw.value⟩

/-- Settles O23: the three ways XPACK ends. -/
theorem xpackPacksOrReturnsTheSentinel : Obligations.XpackPacksOrReturnsTheSentinel := by
  intro rd ra rb s e m n
  refine ⟨succeedsX_xpack_zero rd ra, fun ⟨hm, lo, hi⟩ => ?_, fun ⟨hm, outside⟩ => returnsSentinel_xpack rd hm outside⟩
  rw [← natCast_packXfl (packable_normByDigits (Int.natAbs_pos.2 hm) lo hi)]
  exact succeedsX_xpack rd hm rfl lo hi

/-- Settles O25: a success leaves INV 0 and a word of the decode domain, the sentinel INV 1. -/
theorem xpackWritesZeroSentinelOrCanonicalWord : Obligations.XpackWritesZeroSentinelOrCanonicalWord := by
  intro rd ra rb s
  obtain ⟨t, hexec⟩ : ∃ t, exec (.xpack rd ra rb) s = .next t := ⟨_, exec_eq_endCommand _ s⟩
  refine ⟨t, hexec, ?_⟩
  cases hinv : statusInv t.status with
  | true =>
    have hvalue := (xpack_returns_sentinel_of_inv hexec hinv).1.value
    exact ⟨iff_of_true hvalue rfl, .inr (.inl hvalue)⟩
  | false =>
    have notSentinel {raw : Nat} : (raw : Int) ≠ -1 := by omega
    by_cases hm : s.readX rb = 0
    · have hvalue := ((succeedsX_xpack_zero rd ra hm).of_exec hexec).1.value
      exact ⟨iff_of_false (by rw [hvalue]; decide) (by decide), .inl hvalue⟩
    · obtain ⟨packable, hvalue⟩ := xpack_packs_of_not_inv hm hexec hinv rfl
      rw [hvalue]
      exact ⟨iff_of_false notSentinel (by decide), .inr (.inr ⟨canonicalWord_natCast_iff.2 ⟨_, _, _, packable, rfl⟩,
        Int.natCast_nonneg _, by exact_mod_cast packXfl_lt_of_packable packable _⟩)⟩

/-- Settles O26: normalization sees the magnitude only, and the sign's place in the sum is 2^62. -/
theorem xpackOfNegatedMantissaClearsTheSign : Obligations.XpackOfNegatedMantissaClearsTheSign := by
  intro rd ra rb rb' s t hpos hneg hexec hinv
  obtain ⟨packable, hvalue⟩ := xpack_packs_of_not_inv hpos.ne' hexec hinv rfl
  have negated := succeedsX_xpack rd (ra := ra) (rb := rb') (s := s) (by omega) (by rw [hneg, Int.natAbs_neg])
    packable.exp_lo packable.exp_hi
  have word : t.readX rd - 2 ^ 62 = packXfl (decide (0 < s.readX rb'))
      (normByDigits (s.readX rb).natAbs (s.readX ra)).2 (normByDigits (s.readX rb).natAbs (s.readX ra)).1 := by
    rw [hvalue, natCast_packXfl packable, natCast_packXfl packable, decide_eq_true hpos,
      decide_eq_false (by omega : ¬0 < s.readX rb'), wordOf, wordOf, if_pos rfl, if_neg Bool.false_ne_true]
    ring
  exact word ▸ negated

/-! ### Operands of equal value -/

theorem makeXfl_mul_ten (e m : Int) : makeXfl e (m * 10) = makeXfl (e + 1) m := by
  obtain rfl | hm := eq_or_ne m 0
  · rw [Int.zero_mul, makeXfl_zero, makeXfl_zero]
  · have sign : (0 < m * 10) = (0 < m) := propext (by omega)
    rw [makeXfl_of_ne_zero (by omega), makeXfl_of_ne_zero hm, Int.natAbs_mul, show (10 : Int).natAbs = 10 from rfl,
      normByDigits_mul_ten (Int.natAbs_pos.2 hm)]
    simp only [sign]

theorem makeXfl_mul_pow (e m : Int) (k : Nat) : makeXfl e (m * 10 ^ k) = makeXfl (e + k) m := by
  induction k generalizing e with
  | zero => simp
  | succ k ih =>
    rw [pow_succ, ← mul_assoc, makeXfl_mul_ten, ih, Nat.cast_succ, add_right_comm, add_assoc]

/-- Of two pairs of one value, the mantissa of the smaller exponent is the other with zeros appended. -/
theorem mantissa_eq_mul_pow {e m m' : Int} {k : Nat}
    (h : (m : ℚ) * (10 : ℚ) ^ e = (m' : ℚ) * (10 : ℚ) ^ (e + k)) : m = m' * 10 ^ k := by
  have nonzero : (10 : ℚ) ^ e ≠ 0 := zpow_ne_zero e (by norm_num)
  rw [zpow_add₀ (by norm_num), zpow_natCast, mul_comm ((10 : ℚ) ^ e), ← mul_assoc] at h
  exact_mod_cast mul_right_cancel₀ nonzero h

theorem makeXfl_eq_of_value_eq {e m e' m' : Int}
    (h : (m : ℚ) * (10 : ℚ) ^ e = (m' : ℚ) * (10 : ℚ) ^ e') : makeXfl e m = makeXfl e' m' := by
  wlog hle : e ≤ e' generalizing e m e' m'
  · exact (this h.symm (le_of_not_ge hle)).symm
  · obtain ⟨k, rfl⟩ := Int.le.dest hle
    rw [mantissa_eq_mul_pow h, makeXfl_mul_pow]

/-- Settles O24: XPACK's end depends on the value only. -/
theorem xpackOfEqualValuesIsTheSame : Obligations.XpackOfEqualValuesIsTheSame := by
  intro rd ra rb ra' rb' s h
  rw [exec_eq_endCommand, exec_eq_endCommand, commandEnd, commandEnd, makeXfl_eq_of_value_eq h]
  rfl

/-! ### The fields of a packed word -/

/-- A decode command whose operand lies in the decode domain succeeds with its field (R54). -/
theorem succeedsX_of_decodeEnd {i : Instr} {s : State} {raw : Nat} {field : Nat → Int} {v : Int}
    (hend : commandEnd i s = decodeEnd field raw) (hraw : raw < 2 ^ 63) (hv : field raw = v) (lo : -2 ^ 255 ≤ v)
    (hi : v < 2 ^ 255) : SucceedsX i (destinationIndex i) v s := by
  have domain : inXflDomain raw = true := decide_eq_true ⟨Int.natCast_nonneg raw, by exact_mod_cast hraw⟩
  exact succeedsX_of_commandEnd (by rw [hend, decodeEnd, if_pos domain, Int.toNat_natCast, hv]) lo hi

/-- Settles O30: each decode command reads its field of the sum that R52 packs. -/
theorem fieldsOfAPackedWordAreTheNormalizedPair : Obligations.FieldsOfAPackedWordAreTheNormalizedPair := by
  intro rd ra rb re s t hm hexec hinv
  obtain ⟨packable, hvalue⟩ := xpack_packs_of_not_inv hm hexec hinv rfl
  have ⟨exp_lo, exp_hi, _, man_hi⟩ := packable
  have hraw := packXfl_lt_of_packable packable (decide (0 < s.readX rb))
  refine ⟨?_, ?_, ?_⟩
  · exact succeedsX_of_decodeEnd (i := .xexp re rd) (by rw [commandEnd, hvalue]) hraw (xflExp_packXfl packable _)
      (by omega) (by omega)
  · exact succeedsX_of_decodeEnd (i := .xman re rd) (by rw [commandEnd, hvalue]) hraw
      (by rw [xflMan_packXfl packable]) (by omega) (by omega)
  · refine succeedsX_of_decodeEnd (i := .xneg re rd) (by rw [commandEnd, hvalue]) hraw ?_ (by omega) (by omega)
    obtain negative | positive := hm.lt_or_gt
    · simp [xflNeg_packXfl packable, negative, negative.le]
    · simp [xflNeg_packXfl packable, positive, positive.le]

/-- Settles O31: the fields are a packable pair, which normalization leaves as it is. -/
theorem canonicalWordIsRebuiltFromItsFields : Obligations.CanonicalWordIsRebuiltFromItsFields := by
  intro rd ra rb s raw hcanonical hexp hman
  obtain ⟨pos, en, mn, packable, rfl⟩ := canonicalWord_natCast_iff.1 hcanonical
  have ⟨exp_lo, exp_hi, man_lo, man_hi⟩ := packable
  rw [xflExp_packXfl packable] at hexp
  rw [xflNeg_packXfl packable, xflMan_packXfl packable] at hman
  have operand : s.readX rb = if pos then (mn : Int) else -mn := by cases pos <;> simp [hman]
  have magnitude : (s.readX rb).natAbs = mn := by omega
  have sign : decide (0 < s.readX rb) = pos := by
    cases pos
    · exact decide_eq_false (by rw [operand, if_neg Bool.false_ne_true]; omega)
    · exact decide_eq_true (by rw [operand, if_pos rfl]; omega)
  have normalized : normByDigits (s.readX rb).natAbs (s.readX ra) = (mn, en) := by
    rw [magnitude, hexp, normByDigits_of_canonical (digitCount_eq_sixteen_iff.2 ⟨man_lo, man_hi⟩)]
  have packs := succeedsX_xpack rd (by omega) normalized exp_lo exp_hi
  rwa [sign] at packs

end Sys2Proof.Machine
end

section
/-! SUPPORT. XEXP, XMAN and XNEG for every operand (42_xfl_unpack.md R54 to R59): the fields of an integer of the decode
domain, and the error outside it. The display string of a packed word (R60). -/

namespace Sys2Proof.Machine

/-! ### The fields of a word of the decode domain -/

theorem inXflDomain_eq_false_iff {raw : Int} : inXflDomain raw = false ↔ raw < 0 ∨ 2 ^ 63 ≤ raw := by
  rw [inXflDomain, decide_eq_false_iff_not, not_and_or, not_le, not_lt]

theorem xflExp_zero : xflExp 0 = 0 := rfl

theorem xflExp_toNat {raw : Int} (h : 0 < raw) : xflExp raw.toNat = raw / 2 ^ 54 % 2 ^ 8 - 97 := by
  rw [xflExp, if_neg (by omega), bitField, xflBias]
  omega

/-- The exponent field has eight bits (R55). -/
theorem xflExp_range (raw : Nat) : -97 ≤ xflExp raw ∧ xflExp raw ≤ 158 := by
  rw [xflExp, bitField, xflBias]
  split <;> omega

theorem xflMan_toNat {raw : Int} (h : 0 ≤ raw) : (xflMan raw.toNat : Int) = raw % 2 ^ 54 := by
  rw [xflMan, bitField]
  omega

/-- The mantissa field has 54 bits (R55). -/
theorem xflMan_lt (raw : Nat) : xflMan raw < 2 ^ 54 := Nat.mod_lt _ (by decide)

theorem xflNeg_zero : xflNeg 0 = 0 := rfl

/-- Bit 62 of a word below 2^62 is clear. -/
theorem xflNeg_toNat_of_lt {raw : Int} (pos : 0 < raw) (hi : raw < 2 ^ 62) : xflNeg raw.toNat = 1 := by
  rw [xflNeg, if_neg (by omega), bitField, if_pos (by omega)]

/-- Bit 62 of a word of the domain from 2^62 on is set. -/
theorem xflNeg_toNat_of_le {raw : Int} (lo : 2 ^ 62 ≤ raw) (hi : raw < 2 ^ 63) : xflNeg raw.toNat = 0 := by
  rw [xflNeg, if_neg (by omega), bitField, if_neg (by omega)]

theorem xflNeg_le_one (raw : Nat) : xflNeg raw ≤ 1 := by
  rw [xflNeg]
  split_ifs <;> decide

/-! ### How the decode commands end -/

/-- A decode command whose operand lies in the decode domain succeeds with the operand's field (R54). -/
theorem succeedsX_of_mem_domain {i : Instr} {s : State} {raw : Int} {field : Nat → Int}
    (hend : commandEnd i s = decodeEnd field raw) (lo : 0 ≤ raw) (hi : raw < 2 ^ 63)
    (field_lo : -2 ^ 255 ≤ field raw.toNat) (field_hi : field raw.toNat < 2 ^ 255) :
    SucceedsX i (destinationIndex i) (field raw.toNat) s :=
  succeedsX_of_decodeEnd (by rw [hend, Int.toNat_of_nonneg lo]) (by omega) rfl field_lo field_hi

/-- XEXP of a word of the decode domain (R57). -/
theorem succeedsX_xexp (rd : RegIdx) {ra : RegIdx} {s : State} (lo : 0 ≤ s.readX ra) (hi : s.readX ra < 2 ^ 63) :
    SucceedsX (.xexp rd ra) rd (xflExp (s.readX ra).toNat) s :=
  have ⟨exp_lo, exp_hi⟩ := xflExp_range (s.readX ra).toNat
  succeedsX_of_mem_domain (i := .xexp rd ra) rfl lo hi (by omega) (by omega)

/-- XMAN of a word of the decode domain (R58). -/
theorem succeedsX_xman (rd : RegIdx) {ra : RegIdx} {s : State} (lo : 0 ≤ s.readX ra) (hi : s.readX ra < 2 ^ 63) :
    SucceedsX (.xman rd ra) rd (xflMan (s.readX ra).toNat) s :=
  have man_lt := xflMan_lt (s.readX ra).toNat
  succeedsX_of_mem_domain (i := .xman rd ra) (field := fun raw => xflMan raw) rfl lo hi (by omega) (by omega)

/-- XNEG of a word of the decode domain (R59). -/
theorem succeedsX_xneg (rd : RegIdx) {ra : RegIdx} {s : State} (lo : 0 ≤ s.readX ra) (hi : s.readX ra < 2 ^ 63) :
    SucceedsX (.xneg rd ra) rd (xflNeg (s.readX ra).toNat) s :=
  have neg_le := xflNeg_le_one (s.readX ra).toNat
  succeedsX_of_mem_domain (i := .xneg rd ra) (field := fun raw => xflNeg raw) rfl lo hi (by omega) (by omega)

/-- Settles O27: the exponent field inside the decode domain, the error outside it. -/
theorem xexpReadsTheExponentOrRaisesInvalidXfl : Obligations.XexpReadsTheExponentOrRaisesInvalidXfl := by
  refine fun rd ra s => ⟨fun zero => ?_, fun ⟨pos, hi⟩ => ?_, fun outside =>
    raises_of_decodeEnd xflExp rfl (inXflDomain_eq_false_iff.2 outside)⟩
  · have reads := succeedsX_xexp rd (ra := ra) (s := s) (by omega) (by omega)
    rwa [zero, Int.toNat_zero, xflExp_zero] at reads
  · rw [← xflExp_toNat pos]
    exact succeedsX_xexp rd pos.le hi

/-- Settles O28: the mantissa field inside the decode domain, the error outside it. -/
theorem xmanReadsTheMantissaOrRaisesInvalidXfl : Obligations.XmanReadsTheMantissaOrRaisesInvalidXfl := by
  refine fun rd ra s => ⟨fun ⟨lo, hi⟩ => ?_, fun outside =>
    raises_of_decodeEnd (fun raw => xflMan raw) rfl (inXflDomain_eq_false_iff.2 outside)⟩
  rw [← xflMan_toNat lo]
  exact succeedsX_xman rd lo hi

/-- Settles O29: the sign by bit 62 inside the decode domain, the error outside it. -/
theorem xnegReadsTheSignOrRaisesInvalidXfl : Obligations.XnegReadsTheSignOrRaisesInvalidXfl := by
  refine fun rd ra s => ⟨fun zero => ?_, fun ⟨pos, hi⟩ => ?_, fun ⟨lo, hi⟩ => ?_, fun outside =>
    raises_of_decodeEnd (fun raw => xflNeg raw) rfl (inXflDomain_eq_false_iff.2 outside)⟩
  · have reads := succeedsX_xneg rd (ra := ra) (s := s) (by omega) (by omega)
    rwa [zero, Int.toNat_zero, xflNeg_zero] at reads
  · have reads := succeedsX_xneg rd pos.le (by omega)
    rwa [xflNeg_toNat_of_lt pos hi] at reads
  · have reads := succeedsX_xneg rd (by omega) hi
    rwa [xflNeg_toNat_of_le lo hi] at reads

/-! ### The display string -/

/-- The display string of a packed word shows the sign, mantissa and exponent it was packed from (R60). -/
theorem disp_packXfl {en : Int} {mn : Nat} (h : Packable en mn) (pos : Bool) :
    disp (packXfl pos en mn) =
      (if pos then '+' else '-') :: decimalDigits mn ++ 'E' :: dispExponent en := by
  rw [disp, if_neg (packXfl_ne_zero h pos), xflNeg_packXfl h, xflMan_packXfl h, xflExp_packXfl h]
  cases pos <;> rfl

/-- Settles O33: 1.00 is packed from the mantissa 10^15 and the exponent -15. -/
theorem displayOfOneHasExponentMinus15 : Obligations.DisplayOfOneHasExponentMinus15 := by
  have one : packXfl true (-15) (10 ^ 15) = 0x54838D7EA4C68000 := by decide
  have packable : Packable (-15) (10 ^ 15) := ⟨by decide, by decide, by decide, by decide⟩
  rw [Obligations.DisplayOfOneHasExponentMinus15, ← one, disp_packXfl packable]
  decide

end Sys2Proof.Machine
end

section
/-! SUPPORT. Byte-order inversion (43_byte_order.md R61 to R63): the bytes of a flipped value and the groups of a flipped
string by their places, FLIPX and FLIPS for every operand, and both commands twice in place. -/

namespace Sys2Proof.Machine

/-! ### The bytes of a flipped value -/

/-- Byte k of n is the digit of place n - 1 - k (R12). -/
theorem getD_bytesBE {n k : Nat} (hk : k < n) (v : Nat) :
    (bytesBE n v).getD k 0 = BitVec.ofNat 8 (v / 256 ^ (n - 1 - k) % 256) := by
  rw [List.getD_eq_getElem _ _ (by rwa [bytesBE_length])]
  simp [bytesBE_eq_placeDigits, placeDigits]

/-- The bytes of R61, by their places in R12's list. -/
theorem getD_bytesBE_flipBytes {n k : Nat} (hk : k < n) (v : Nat) :
    (bytesBE n (flipBytes n v)).getD k 0 = (bytesBE n v).getD (n - 1 - k) 0 := by
  rw [bytesBE_flipBytes, List.getD_reverse _ (by rwa [bytesBE_length]), bytesBE_length]

/-- The bytes of R61, by their weights. -/
theorem flipBytes_digit {n k : Nat} (hk : k < n) (v : Nat) :
    flipBytes n v / 256 ^ k % 256 = v / 256 ^ (n - 1 - k) % 256 := by
  have mirror : n - 1 - (n - 1 - k) = k := by omega
  have bytes := getD_bytesBE_flipBytes (show n - 1 - k < n by omega) v
  rw [mirror, getD_bytesBE (by omega), getD_bytesBE hk, mirror] at bytes
  simpa using congrArg BitVec.toNat bytes

/-- A flipped value is a value of the same width (R61). -/
theorem flipBytes_lt_pow_bits (w : Width) (v : Nat) : flipBytes w.bytes v < 2 ^ w.bits :=
  pow_bytes_eq_pow_bits w ▸ flipBytes_lt w.bytes v

/-! ### The groups of a flipped string -/

/-- Induction over the strings of even length, group by group. -/
theorem even_length_induction {P : (txt : Str) → txt.length % 2 = 0 → Prop} (nil : P [] rfl)
    (group : ∀ (a b : Byte) (rest : Str) (even : rest.length % 2 = 0), P rest even →
      P (a :: b :: rest) ((Nat.add_mod_right _ 2).trans even)) :
    ∀ (txt : Str) (even : txt.length % 2 = 0), P txt even
  | [], _ => nil
  | a :: b :: rest, even =>
    have rest_even := (Nat.add_mod_right rest.length 2).symm.trans even
    group a b rest rest_even (even_length_induction nil group rest rest_even)

/-- Character c of group j stands in the j-th group from the end, at the same place in it (R61). -/
theorem getD_flipGroups {txt : Str} (even : txt.length % 2 = 0) {j c : Nat} (hj : j < txt.length / 2) (hc : c < 2) :
    (flipGroups txt).getD (2 * j + c) 0 = txt.getD (txt.length - 2 - 2 * j + c) 0 := by
  induction txt, even using even_length_induction with
  | nil => simp at hj
  | group a b rest even ih =>
    have hlen := flipGroups_length rest
    simp only [List.length_cons] at hj ⊢
    rw [flipGroups]
    obtain inner | last : j < rest.length / 2 ∨ 2 * j = rest.length := by omega
    · rw [List.getD_append _ _ _ _ (by omega), ih inner,
        show rest.length + 1 + 1 - 2 - 2 * j + c = rest.length - 2 - 2 * j + c + 1 + 1 by omega,
        List.getD_cons_succ, List.getD_cons_succ]
    · rw [List.getD_append_right _ _ _ _ (by omega), hlen, last]
      obtain rfl | rfl : c = 0 ∨ c = 1 := by omega
      all_goals simp

/-- The last group comes first (R61). -/
theorem flipGroups_append_group {txt : Str} (even : txt.length % 2 = 0) (a b : Byte) :
    flipGroups (txt ++ [a, b]) = a :: b :: flipGroups txt := by
  induction txt, even using even_length_induction with
  | nil => rfl
  | group c d rest even ih =>
    rw [List.cons_append, List.cons_append, flipGroups, ih, flipGroups, List.cons_append, List.cons_append]

/-- Reversing the groups twice restores the string (R61). -/
theorem flipGroups_flipGroups {txt : Str} (even : txt.length % 2 = 0) : flipGroups (flipGroups txt) = txt := by
  induction txt, even using even_length_induction with
  | nil => rfl
  | group a b rest even ih =>
    rw [flipGroups, flipGroups_append_group (by rwa [flipGroups_length]), ih]

/-- Regrouping moves characters and makes none (R63). -/
theorem mem_flipGroups {c : Byte} {txt : Str} : c ∈ flipGroups txt ↔ c ∈ txt := by
  induction txt using flipGroups.induct with
  | case1 a b rest ih =>
    rw [flipGroups, List.mem_append, ih, or_comm, ← List.mem_append]
    rfl
  | case2 txt short => rw [flipGroups.eq_2 txt short]

/-- R61's equations: the two characters of each group of the flipped string. -/
theorem getD_flipGroups_pair {txt : Str} (even : txt.length % 2 = 0) {j : Nat} (hj : j < txt.length / 2) :
    (flipGroups txt).getD (2 * j) 0 = txt.getD (txt.length - 2 - 2 * j) 0 ∧
      (flipGroups txt).getD (2 * j + 1) 0 = txt.getD (txt.length - 1 - 2 * j) 0 := by
  refine ⟨getD_flipGroups even hj (c := 0) (by decide), ?_⟩
  rw [getD_flipGroups even hj (by decide), show txt.length - 2 - 2 * j + 1 = txt.length - 1 - 2 * j by omega]

/-- Settles O34: each flip by its places, and its involution. -/
theorem flipFunctionsReverseAndInvert : Obligations.FlipFunctionsReverseAndInvert := by
  refine ⟨fun w v hv => ?_, fun txt even =>
    ⟨flipGroups_length txt, fun j hj => getD_flipGroups_pair even hj, flipGroups_flipGroups even⟩⟩
  rw [← pow_bytes_eq_pow_bits] at hv ⊢
  exact ⟨flipBytes_lt _ v, fun k hk => getD_bytesBE_flipBytes hk v, flipBytes_flipBytes hv⟩

/-! ### FLIPX and FLIPS for every operand -/

/-- Settles O35: the flipped value inside the width, the error outside it. -/
theorem flipxReversesBytesOrRaisesRangeError : Obligations.FlipxReversesBytesOrRaisesRangeError := by
  refine fun rd ra w s => ⟨fun ⟨lo, hi⟩ => ?_, fun outside => raises_flipx (inWidth_eq_false_iff.2 outside)⟩
  obtain ⟨n, hread, hn⟩ := exists_natCast_of_inWidth lo hi
  refine ⟨flipBytes w.bytes n, flipBytes_lt_pow_bits w n, fun k hk => ?_, succeedsX_flipx hread hn⟩
  rw [hread, Int.toNat_natCast]
  exact flipBytes_digit hk n

/-- FLIPS of a string of hex digits of even length (R63). -/
theorem succeedsS_flips {rd ra : RegIdx} {s : State} (even : (s.readS ra).length % 2 = 0)
    (hhex : ∀ b ∈ s.readS ra, IsHexByte b) : SucceedsS (.flips rd ra) rd (flipGroups (s.readS ra)) s := by
  refine succeedsS_of_commandEnd (i := .flips rd ra) ?_
  rw [commandEnd, flipsEnd, if_neg (not_not.2 even), if_pos (all_isHexDigit_of_isHexByte hhex)]

theorem all_isHexDigit_iff {txt : Str} : txt.all isHexDigit = true ↔ ∀ b ∈ txt, IsHexByte b := by
  simp only [List.all_eq_true, isHexDigit_eq_decide_isHexByte, decide_eq_true_iff]

/-- FLIPS of a string of odd length or with another byte (R63). -/
theorem raises_flips {rd ra : RegIdx} {s : State}
    (h : (s.readS ra).length % 2 = 1 ∨ ∃ b ∈ s.readS ra, ¬IsHexByte b) : Raises (.flips rd ra) 2 s := by
  refine raises_of_commandEnd (e := .formatError) ?_
  obtain ⟨even, hall, -⟩ | ⟨-, hend⟩ := flipsEnd_cases (s.readS ra)
  · obtain odd | ⟨b, hb, hnot⟩ := h
    · omega
    · exact absurd (all_isHexDigit_iff.1 hall b hb) hnot
  · exact hend

/-- Settles O36: the flipped string, or the error for an odd length or another byte. -/
theorem flipsReversesGroupsOrRaisesFormatError : Obligations.FlipsReversesGroupsOrRaisesFormatError :=
  fun _ _ _ => ⟨fun ⟨even, hhex⟩ => ⟨_, flipGroups_length _, fun _ hj => getD_flipGroups_pair even hj,
    succeedsS_flips even hhex⟩, raises_flips⟩

/-! ### Both commands twice in place -/

/-- Of two writes of one integer register the second remains. -/
theorem WritesX.trans {rd : RegIdx} {v v' : Int} {s t u : State} (h : WritesX rd v s t) (h' : WritesX rd v' t u) :
    WritesX rd v' s u where
  value := h'.value
  otherX j hj := (h'.otherX j hj).trans (h.otherX j hj)
  strings j := (h'.strings j).trans (h.strings j)
  marks r := by rw [h'.marks, h.marks, or_self_left]
  pending := h'.pending.trans h.pending
  replies := h'.replies.trans h.replies

/-- Of two writes of one string register the second remains. -/
theorem WritesS.trans {rd : RegIdx} {txt txt' : Str} {s t u : State} (h : WritesS rd txt s t)
    (h' : WritesS rd txt' t u) : WritesS rd txt' s u where
  value := h'.value
  otherS j hj := (h'.otherS j hj).trans (h.otherS j hj)
  integers j := (h'.integers j).trans (h.integers j)
  marks r := by rw [h'.marks, h.marks, or_self_left]
  pending := h'.pending.trans h.pending
  replies := h'.replies.trans h.replies

/-- Settles O37: the second flip reads what the first wrote and undoes it. -/
theorem flippingTwiceInPlaceRestoresTheRegister : Obligations.FlippingTwiceInPlaceRestoresTheRegister := by
  refine ⟨fun r w s lo hi => ?_, fun r s even hhex => ?_⟩
  · obtain ⟨n, hread, hn⟩ := exists_natCast_of_inWidth lo hi
    have hbytes : n < 256 ^ w.bytes := pow_bytes_eq_pow_bits w ▸ hn
    obtain ⟨p, hfirst, hwp, hsp⟩ := succeedsX_flipx (rd := r) hread hn
    obtain ⟨t, hsecond, hwt, hst⟩ := succeedsX_flipx (rd := r) hwp.value (flipBytes_lt_pow_bits w n)
    rw [flipBytes_flipBytes hbytes, ← hread] at hwt
    exact ⟨t, execAll_pair hfirst hsecond, hwp.trans hwt, hsp.trans hst⟩
  · obtain ⟨p, hfirst, hwp, hsp⟩ := succeedsS_flips (rd := r) even hhex
    have even' : (p.readS r).length % 2 = 0 := by rwa [hwp.value, flipGroups_length]
    have hhex' : ∀ b ∈ p.readS r, IsHexByte b := fun b hb => hhex b (mem_flipGroups.1 (hwp.value ▸ hb))
    obtain ⟨t, hsecond, hwt, hst⟩ := succeedsS_flips (rd := r) even' hhex'
    rw [hwp.value, flipGroups_flipGroups even] at hwt
    exact ⟨t, execAll_pair hfirst hsecond, hwp.trans hwt, hsp.trans hst⟩

end Sys2Proof.Machine
end

section
/-! SUPPORT. The three outcomes of a command (60_exceptions.md R64 to R68): which of them each command can have, and that no
two of them hold of one STATUS. -/

namespace Sys2Proof.Machine

/-! ### No two outcomes at once -/

theorem StatusSuccess.not_statusSentinel {s t : State} (h : StatusSuccess s t) : ¬StatusSentinel s t := fun h' =>
  Bool.false_ne_true (h.inv.symm.trans h'.inv)

theorem StatusError.not_statusSentinel {code : Nat} {s t : State} (h : StatusError code s t) : ¬StatusSentinel s t :=
  fun h' => Bool.false_ne_true (h.inv.symm.trans h'.inv)

/-- ERR is 0 after a success and no error's code is 0 (R65). -/
theorem StatusSuccess.not_statusError {i : Instr} {code : Nat} {s t : State} (h : StatusSuccess s t)
    (hcode : errorCodeOf i = some code) : ¬StatusError code s t := by
  intro h'
  have zero : code = 0 := by rw [← h'.err, h.err]; rfl
  subst zero
  cases i <;> simp [errorCodeOf] at hcode

/-! ### Which outcomes a command can have -/

/-- The command can end so: a value fits the kind of its destination (R39), only XPACK returns the sentinel (R68), and an
error is the command's own (R65). -/
def CmdEnd.Permitted (i : Instr) : CmdEnd → Prop
  | .doneX _ => destinationOf i = .x (destinationIndex i)
  | .doneS _ => destinationOf i = .s (destinationIndex i)
  | .sentinel => ∃ ra rb, i = .xpack (destinationIndex i) ra rb
  | .error e => errorCodeOf i = some e.code.toNat

theorem decodeEnd_permitted {i : Instr} (field : Nat → Int) (raw : Int)
    (hdest : destinationOf i = .x (destinationIndex i)) (hcode : errorCodeOf i = some 3) :
    (decodeEnd field raw).Permitted i := by
  obtain ⟨-, h⟩ | ⟨-, h⟩ := decodeEnd_cases field raw <;> rw [h]
  · exact hdest
  · exact hcode

theorem commandEnd_permitted (i : Instr) (s : State) : (commandEnd i s).Permitted i := by
  cases i with
  | henc rd ra w =>
    rw [commandEnd]
    obtain ⟨-, h⟩ | ⟨-, h⟩ := hencEnd_cases w (s.readX ra) <;> rw [h] <;> rfl
  | hdec rd ra w =>
    rw [commandEnd]
    obtain ⟨-, -, h⟩ | ⟨-, h⟩ := hdecEnd_cases (s.readS ra) <;> rw [h] <;> rfl
  | xpack rd ra rb =>
    rw [commandEnd]
    obtain ⟨raw, h⟩ | h := makeXfl_cases (s.readX ra) (s.readX rb) <;> rw [h]
    · rfl
    · exact ⟨ra, rb, rfl⟩
  | xexp rd ra => exact decodeEnd_permitted xflExp _ rfl rfl
  | xman rd ra => exact decodeEnd_permitted (fun raw => xflMan raw) _ rfl rfl
  | xneg rd ra => exact decodeEnd_permitted (fun raw => xflNeg raw) _ rfl rfl
  | flipx rd ra w =>
    rw [commandEnd]
    obtain ⟨-, h⟩ | ⟨-, h⟩ := flipxEnd_cases w (s.readX ra) <;> rw [h] <;> rfl
  | flips rd ra =>
    rw [commandEnd]
    obtain ⟨-, -, h⟩ | ⟨-, h⟩ := flipsEnd_cases (s.readS ra) <;> rw [h] <;> rfl

/-- A command that ends with an integer, of whatever size, succeeds with what a register stores of it (R15, log entry 13). -/
theorem succeedsX_toInt_of_commandEnd {i : Instr} {s : State} {v : Int} (h : commandEnd i s = .doneX v) :
    SucceedsX i (destinationIndex i) (BitVec.ofInt 256 v).toInt s := by
  refine ⟨_, exec_eq_endCommand i s, ?_⟩
  rw [h, State.endCommand_doneX]
  exact ⟨(writesX_writeXWord s _ _).done, statusSuccess_done rfl⟩

/-- Settles O13: by how the command ends; STATUS tells the outcomes apart. -/
theorem everyCommandEndsInExactlyOneOutcome : Obligations.EveryCommandEndsInExactlyOneOutcome := by
  intro i s
  have permitted := commandEnd_permitted i s
  cases hend : commandEnd i s with rw [hend] at permitted
  | doneX v =>
    obtain ⟨t, hexec, hw, hs⟩ := succeedsX_toInt_of_commandEnd hend
    exact ⟨t, hexec, .inl ⟨⟨hs, .inl ⟨_, _, permitted, hw⟩⟩, fun ⟨h, _⟩ => hs.not_statusSentinel h,
      fun ⟨_, hcode, h, _⟩ => hs.not_statusError hcode h⟩⟩
  | doneS txt =>
    obtain ⟨t, hexec, hw, hs⟩ := succeedsS_of_commandEnd hend
    exact ⟨t, hexec, .inl ⟨⟨hs, .inr ⟨_, _, permitted, hw⟩⟩, fun ⟨h, _⟩ => hs.not_statusSentinel h,
      fun ⟨_, hcode, h, _⟩ => hs.not_statusError hcode h⟩⟩
  | sentinel =>
    obtain ⟨t, hexec, hw, hs⟩ := returnsSentinel_of_commandEnd hend
    obtain ⟨ra, rb, hi⟩ := permitted
    exact ⟨t, hexec, .inr (.inl ⟨fun ⟨h, _⟩ => h.not_statusSentinel hs, ⟨hs, _, ra, rb, hi, hw⟩,
      fun ⟨_, _, h, _⟩ => h.not_statusSentinel hs⟩)⟩
  | error e =>
    obtain ⟨t, hexec, hw, hs⟩ := raises_of_commandEnd hend
    exact ⟨t, hexec, .inr (.inr ⟨fun ⟨h, _⟩ => h.not_statusError permitted hs, fun ⟨h, _⟩ => hs.not_statusSentinel h,
      ⟨_, permitted, hs, hw⟩⟩)⟩

end Sys2Proof.Machine
end

section
/-! SUPPORT. Reset (70_reset_and_hazards.md R79, R80) and the round bound of normalization (R84). -/

namespace Sys2Proof.Machine

/-- Settles O12: the state after power-on is a reset of itself, so both halves speak of `resetBlock`. -/
theorem resetClearsStatusAndMarks : Obligations.ResetClearsStatusAndMarks :=
  ⟨⟨resetBlock_status State.reset, State.isWritten_resetBlock State.reset⟩, fun s =>
    ⟨resetBlock s, perform_of_inTable rfl s, resetBlock_status s, State.isWritten_resetBlock s,
      perform_of_inTable rfl (resetBlock s)⟩⟩

/-- The first loop, given a round for each digit above 16, drops exactly those digits. -/
theorem divideDown_eq_div_pow {fuel a : Nat} (enough : digitCount a ≤ 16 + fuel) (e : Int) :
    divideDown fuel a e = (a / 10 ^ (digitCount a - 16), e + (digitCount a - 16 : Nat)) := by
  induction fuel generalizing a e with
  | zero => simp [divideDown, Nat.sub_eq_zero_of_le enough]
  | succ fuel ih =>
    rw [divideDown]
    split_ifs with hhigh
    · have long := gt_xflMmax_iff.1 hhigh
      have count := digitCount_div_ten a
      rw [ih (by omega), Nat.div_div_eq_div_mul, ← Nat.pow_succ',
        show digitCount a - 16 = digitCount (a / 10) - 16 + 1 by omega]
      ext1
      · rfl
      · push_cast
        ring
    · simp [Nat.sub_eq_zero_of_le (not_lt.1 (mt gt_xflMmax_iff.2 hhigh))]

/-- What the first loop leaves has at most 16 digits. -/
theorem digitCount_divideDown_le {fuel a : Nat} (enough : digitCount a ≤ 16 + fuel) (e : Int) :
    digitCount (divideDown fuel a e).1 ≤ 16 := by
  rw [divideDown_eq_div_pow enough, digitCount_div_pow]
  omega

/-- The magnitude of a register has at most 77 = 16 + 61 digits (R84). -/
theorem digitCount_le_of_le_two_pow {a : Nat} (ha : a ≤ 2 ^ 255) : digitCount a ≤ 16 + 61 :=
  digitCount_le_iff.2 (ha.trans_lt (by norm_num))

/-- The round limit `a` of `norm` is enough for the first loop (R50). -/
theorem digitCount_le_add_self (a : Nat) : digitCount a ≤ 16 + a :=
  Nat.le_add_left_of_le (digitCount_le_iff.2 (Nat.lt_pow_self (by decide)))

/-- Settles O22: a register's magnitude has at most 61 digits above 16, each one division, and what is left lacks at
most 15 of 16. -/
theorem normalizationNeedsAtMost61Divisions : Obligations.NormalizationNeedsAtMost61Divisions := by
  intro a e ha
  have enough := digitCount_le_of_le_two_pow ha
  refine ⟨?_, ?_, fun pos => ?_⟩
  · rw [divideDown_eq_div_pow (digitCount_le_add_self a), divideDown_eq_div_pow enough]
  · exact Nat.le_pred_of_lt (digitCount_le_iff.1 (digitCount_divideDown_le enough e))
  · rw [multiplyUp_divideDown_eq_normByDigits pos enough]
    exact (digitCount_eq_sixteen_iff.1 (digitCount_normByDigits pos e)).1

end Sys2Proof.Machine
end
